-- ==== Sys2Proof/Word.lean ====
section
/-! DEFINITION. The word types of the Color Codec Unit. -/

namespace Sys2Proof

/-- A 32-bit register value as the host reads and writes it (00_scope.md R4, 10_state.md R20). -/
abbrev Word := BitVec 32

/-- An 8-bit channel, brightness or bus lane (00_scope.md section 3). -/
abbrev Byte := BitVec 8

/-- A 24-bit packed Color: R in [23:16], G in [15:8], B in [7:0] (20_memory.md R42). -/
abbrev Color := BitVec 24

end Sys2Proof
end

