-- ==== Sys2Proof/Config.lean ====
section
/-! DEFINITION. What is fixed for the unit: the size of its register window, the one legal access width,
the reset brightness, and the value the base address has in `State.reset`. The spec leaves no result open,
so there is no free value. -/

namespace Sys2Proof.Config

/-- The register window is 8 words, 0x20 bytes (20_memory.md R40). -/
def windowBytes : Nat := 0x20

/-- The width in bytes of every legal access (20_memory.md R41). -/
def accessBytes : Nat := 4

/-- BRT after reset (70_reset_and_hazards.md R130, decision D16). -/
def resetBrightness : Byte := 255

/-- CCU_BASE in `State.reset`. DESIGN CHOICE (log entry 1), unsafe: 00_scope.md R3 fixes no value and has a
model take it as an argument. The argument is the field `base` of the state, and no statement rests on
this value. -/
def resetBase : Nat := 0

end Sys2Proof.Config
end

