-- ==== Sys2Proof/Syntax.lean ====
section
/-! DEFINITION. The commands of the unit: one constructor per row of the opcode table (30_encoding.md R62).
A command word has no register and no immediate field (30_encoding.md R61), so no constructor has an argument. -/

namespace Sys2Proof

/-- A legal command (30_encoding.md R62). Illegal words are not commands: the decoder rejects them by name. -/
inductive Instr where
  /-- NOP, 40_command.md R72. -/
  | nop
  /-- PACK, 41_pack_unpack.md R81. -/
  | pack
  /-- UNPACKR, 41_pack_unpack.md R82. -/
  | unpackr
  /-- UNPACKG, 41_pack_unpack.md R83. -/
  | unpackg
  /-- UNPACKB, 41_pack_unpack.md R84. -/
  | unpackb
  /-- HSL, 42_hsl.md R100. -/
  | hsl
  /-- SCALE, 43_scale.md R111. -/
  | scale
  /-- SCALECH, 43_scale.md R114. -/
  | scalech
  deriving DecidableEq, Repr

end Sys2Proof
end

