-- ==== Sys2Proof/WellFormed.lean ====
section
/-! DEFINITION. The checks on what the host hands to the unit. `Instr` itself has no ill-formed term, since
no command has an operand field (30_encoding.md R61): what can be ill-formed is a command word, the platform's
choice of base address, and the numbers of an assembly line. -/

namespace Sys2Proof

/-- A command word is legal exactly when RSV (bits [31:4]) is 0 and OP (bits [3:0]) is at most 7
(30_encoding.md R60). -/
def wordWellFormed (w : Word) : Bool :=
  w.extractLsb' 4 28 == 0 && decide ((w.extractLsb' 0 4).toNat ≤ 7)

/-- CCU_BASE is a 4-byte-aligned address (00_scope.md section 3). -/
def baseWellFormed (base : Nat) : Bool := base % 4 == 0

/-- A raw byte offset of an assembly line lies in the window (30_encoding.md R65, 20_memory.md R40). -/
def offsetWellFormed (off : Nat) : Bool := decide (off < Config.windowBytes)

/-- The value of an assembly line is a 32-bit value; a negative one stands for its two's complement
(30_encoding.md R65). -/
def valueWellFormed (v : Int) : Bool := decide (-2 ^ 31 ≤ v) && decide (v < 2 ^ 32)

end Sys2Proof
end

