-- ==== Sys2Proof/Decode.lean ====
section
/-! DEFINITION. The command decoder (30_encoding.md R60 to R67), total on every word and on every list of bytes
and rejecting by name, and after it the encoder, written from the opcode map of R62. -/

namespace Sys2Proof

/-- Why a word or a list of bytes is no command (30_encoding.md R63, R64). -/
inductive NotACommand where
  /-- Bits [31:4] are not all 0, whatever OP is (30_encoding.md R63). -/
  | reservedBits
  /-- OP is 0x8 to 0xF (30_encoding.md R63). -/
  | reservedOpcode
  /-- Not exactly the four bytes of one word (30_encoding.md R64). -/
  | notOneWord
  deriving DecidableEq, Repr

/-- The command of an opcode field OP (30_encoding.md R62, R67). -/
def decodeOpcode (op : BitVec 4) : Except NotACommand Instr :=
  match op.toNat with
  | 0 => .ok .nop
  | 1 => .ok .pack
  | 2 => .ok .unpackr
  | 3 => .ok .unpackg
  | 4 => .ok .unpackb
  | 5 => .ok .hsl
  | 6 => .ok .scale
  | 7 => .ok .scalech
  | _ => .error .reservedOpcode

/-- Command decode (30_encoding.md R67): RSV first, then OP. -/
def decodeWord (w : Word) : Except NotACommand Instr :=
  if w.extractLsb' 4 28 = 0 then decodeOpcode (w.extractLsb' 0 4) else .error .reservedBits

/-- The byte that lane `k` carries: bits [8k+7 : 8k] of the register value (20_memory.md R42). -/
def lane (v : Word) (k : Nat) : Byte := v.extractLsb' (8 * k) 8

/-- The four lanes of a word, the one at the lowest address first (20_memory.md R42). -/
def lanes (v : Word) : List Byte := [lane v 0, lane v 1, lane v 2, lane v 3]

/-- The word whose lanes are the four bytes, the one at the lowest address first (20_memory.md R42). -/
def wordOfLanes (b0 b1 b2 b3 : Byte) : Word := b3 ++ b2 ++ b1 ++ b0

/-- The command in a list of bytes, the one at the lowest address first. Every command is one word
(30_encoding.md R64). -/
def decodeBytes : List Byte → Except NotACommand Instr
  | [b0, b1, b2, b3] => decodeWord (wordOfLanes b0 b1 b2 b3)
  | _ => .error .notOneWord

/-- The instruction the decoder reads from a row's word, numbered as the opcode table numbers it. -/
def decodeTableWord (nbits w : Nat) : Option Instr :=
  (decodeBytes (lanes (BitVec.ofNat 32 (w % 2 ^ nbits)))).toOption

/-- The opcode field OP of each command (30_encoding.md R62). -/
def opcode : Instr → BitVec 4
  | .nop => 0x0
  | .pack => 0x1
  | .unpackr => 0x2
  | .unpackg => 0x3
  | .unpackb => 0x4
  | .hsl => 0x5
  | .scale => 0x6
  | .scalech => 0x7

/-- The command word: RSV = 0 above OP (30_encoding.md R60, format CMD32). -/
def encode (i : Instr) : Word := (0 : BitVec 28) ++ opcode i

/-- The command word as the four bytes on the bus (20_memory.md R42). -/
def encodeBytes (i : Instr) : List Byte := lanes (encode i)

end Sys2Proof
end

