-- ==== Sys2Proof/Machine/State.lean ====
section
/-! DEFINITION. The state of the unit as plain data: the record of 10_state.md section 6, and beside it what the
MODEL adds to drive it with one step function: the base address, the bus events still to come, and the
values reads have returned. The unit has no memory (20_memory.md R40; log entry 12), no program counter and no register
file (10_state.md R31). -/

namespace Sys2Proof.Machine

/-- The registers of the window (10_state.md section 1). -/
inductive Reg where
  | cmd
  | opa
  | opb
  | opc
  | brt
  | res
  | status
  deriving DecidableEq, Repr

/-- One access of the host (00_scope.md R6, 20_memory.md R41). Addresses are absolute numbers (log entry
10), and `width` is in bytes. The data of a write of another width than 4 is never looked at (20_memory.md R45; log
entry 11). -/
inductive Access where
  /-- `MemRead(addr, width)`. -/
  | read (addr width : Nat)
  /-- `MemWrite(addr, width, data)`. -/
  | write (addr width : Nat) (data : Word)
  deriving DecidableEq, Repr

/-- What brings the reset state about (70_reset_and_hazards.md R130, 60_exceptions.md R128). -/
inductive ResetCause where
  /-- Power is applied, after a loss of power too. -/
  | powerOn
  /-- The platform's reset signal. -/
  | signal
  deriving DecidableEq, Repr

/-- What can reach the unit from outside, one at a time (20_memory.md R48). An access at the same time as a
reset has no form here: the model has no such access (70_reset_and_hazards.md R131). -/
inductive Event where
  /-- An access of the host. -/
  | access (a : Access)
  /-- A reset, with no access in flight. -/
  | reset (c : ResetCause)
  /-- An access of a second bus master, which the model refuses (20_memory.md R54). -/
  | otherMaster (a : Access)
  deriving DecidableEq, Repr

/-- The state of the machine. The first eleven fields are the spec's (10_state.md R30 and section 6); the last
three are the model's own (log entries 1, 2 and 3). -/
structure State where
  /-- OPA, operand register (10_state.md R20). -/
  opa : Word
  /-- OPB, operand register (10_state.md R20). -/
  opb : Word
  /-- OPC, operand register (10_state.md R20). -/
  opc : Word
  /-- BRT, brightness (10_state.md R22). -/
  brt : Byte
  /-- RES[23:0]; RES[31:24] are always 0 (10_state.md R23). -/
  res : Color
  /-- STATUS[1] (10_state.md R24, R26). -/
  hadj : Bool
  /-- STATUS[2] (10_state.md R24, R26). -/
  sadj : Bool
  /-- STATUS[3] (10_state.md R24, R26). -/
  ladj : Bool
  /-- STATUS[4] (10_state.md R24, R26). -/
  madj : Bool
  /-- STATUS[8], sticky (10_state.md R24, R27). -/
  bchg : Bool
  /-- STATUS[9], sticky (10_state.md R24, R27). -/
  ill : Bool
  /-- CCU_BASE, the platform's parameter, which no step changes (00_scope.md R3; log entry 1). -/
  base : Nat
  /-- The bus events still to come, the next one first (20_memory.md R49; log entry 2). -/
  pending : List Event
  /-- The values the host's reads have returned, the newest first (20_memory.md R43; log entry 3). -/
  returned : List Word
  deriving DecidableEq, Repr

/-- The reasons a step stops with a fault. There is none: the unit raises no exception and no access faults
(60_exceptions.md R120). -/
inductive Fault
  deriving DecidableEq, Repr

/-- The reasons a step has no meaning in the model. -/
inductive Refusal where
  /-- Raised by `exec` for an instruction that has no meaning yet. Safe: the run stops. No arm raises it. -/
  | notModelled (mnemonic : String)
  /-- Raised by an access whose address is outside the window: what it reaches is up to the platform and not
  part of the spec (20_memory.md R40; log entry 9). Safe: the run stops. -/
  | outsideWindow
  /-- Raised by an access of a second bus master, which a model refuses (20_memory.md R54; log entry 9).
  Safe: the run stops. -/
  | secondMaster
  deriving DecidableEq, Repr

/-- The machine right after reset (70_reset_and_hazards.md R130), with no access in flight (R131). The base
address is log entry 1's; no event is pending and nothing has been read. -/
def State.reset : State where
  opa := 0
  opb := 0
  opc := 0
  brt := Config.resetBrightness
  res := 0
  hadj := false
  sadj := false
  ladj := false
  madj := false
  bchg := false
  ill := false
  base := Config.resetBase
  pending := []
  returned := []

end Sys2Proof.Machine
end

