-- ==== Sys2Proof/Machine/Operands.lean ====
section
/-! DEFINITION. The operand forms of the commands (30_encoding.md R61): bit fields of an operand register, its
signed reading, and the tests of the bits a command does not use. -/

namespace Sys2Proof.Machine

/-- A word's low byte, `v[7:0]`. -/
def lowByte (v : Word) : Byte := v.extractLsb' 0 8

/-- The red channel of a Color, `v[23:16]` (20_memory.md R42). -/
def redOf (v : Word) : Byte := v.extractLsb' 16 8

/-- The green channel of a Color, `v[15:8]` (20_memory.md R42). -/
def greenOf (v : Word) : Byte := v.extractLsb' 8 8

/-- The blue channel of a Color, `v[7:0]` (20_memory.md R42). -/
def blueOf (v : Word) : Byte := v.extractLsb' 0 8

/-- The two's-complement reading of a register (00_scope.md R4). -/
def sint (v : Word) : Int := v.toInt

/-- `v[31:8] ≠ 0`: bits above a channel (40_command.md R73). -/
def aboveChannel (v : Word) : Bool := v.extractLsb' 8 24 != 0

/-- `v[31:24] ≠ 0`: bits above a Color (40_command.md R73). -/
def aboveColor (v : Word) : Bool := v.extractLsb' 24 8 != 0

/-- An 8-bit channel as the 24 bits of a result, `zext_24` (30_encoding.md R61). -/
def zextChannel (ch : Byte) : Color := ch.setWidth 24

end Sys2Proof.Machine
end

