-- ==== Sys2Proof/Machine/Flags.lean ====
section
/-! DEFINITION. The flags: the ADJ bits each command computes (40_command.md R73), the live Z bit (10_state.md R25)
and the STATUS word (20_memory.md R43). -/

namespace Sys2Proof.Machine

/-- The four ADJ bits, STATUS[4:1] (10_state.md R24). -/
structure Adj where
  hadj : Bool
  sadj : Bool
  ladj : Bool
  madj : Bool
  deriving DecidableEq, Repr

/-- The ADJ bits of a command that can only mask: HADJ, SADJ and LADJ are written 0 (40_command.md R73). -/
def maskAdj (masked : Bool) : Adj := ⟨false, false, false, masked⟩

/-- PACK's row of 40_command.md R73. -/
def packAdj (s : State) : Adj :=
  maskAdj (aboveChannel s.opa || aboveChannel s.opb || aboveChannel s.opc)

/-- The row of UNPACKR, UNPACKG, UNPACKB and of SCALE in 40_command.md R73: the operand is a Color. -/
def colorAdj (s : State) : Adj := maskAdj (aboveColor s.opa)

/-- SCALECH's row of 40_command.md R73: the operand is a channel. -/
def channelAdj (s : State) : Adj := maskAdj (aboveChannel s.opa)

/-- `a` lies outside [0, hi]. -/
def outside (hi a : Int) : Bool := decide (a < 0) || decide (hi < a)

/-- HSL's row of 40_command.md R73. -/
def hslAdj (s : State) : Adj :=
  ⟨outside 359 (sint s.opa), outside 99 (sint s.opb), outside 99 (sint s.opc), false⟩

/-- STATUS.Z: RES is 0 (10_state.md R25). Not stored. -/
def State.z (s : State) : Bool := s.res == 0

/-- The value a read of STATUS returns (20_memory.md R43): ILL ++ BCHG ++ 000 ++ MADJ ++ LADJ ++ SADJ ++ HADJ ++ Z,
zero-extended. -/
def State.statusWord (s : State) : Word :=
  (BitVec.ofBool s.ill ++ BitVec.ofBool s.bchg ++ (0 : BitVec 3) ++ BitVec.ofBool s.madj ++
    BitVec.ofBool s.ladj ++ BitVec.ofBool s.sadj ++ BitVec.ofBool s.hadj ++
    BitVec.ofBool s.z).setWidth 32

end Sys2Proof.Machine
end

