-- ==== Sys2Proof/Machine/Ops.lean ====
section
/-! DEFINITION. The named operations: the integer operators of 00_scope.md R5, and every update of the state. The unit
takes no exception (60_exceptions.md R120, R123), so there is no exception entry and no return from one; what
another unit would trap on is recorded by `State.setIll`. -/

namespace Sys2Proof.Machine

/-- `abs(a)` (00_scope.md R5). -/
def iabs (a : Int) : Int := if a < 0 then -a else a

/-- `idiv(a, b)`: division truncating toward zero (00_scope.md R5). -/
def idiv (a b : Int) : Int := a.tdiv b

/-- `emod(a, n)`: the Euclidean remainder (00_scope.md R5). -/
def emod (a n : Int) : Int := a.emod n

/-- `a >> k`: floor(a / 2^k) (00_scope.md R5). -/
def shr (a : Int) (k : Nat) : Int := a.fdiv (2 ^ k)

/-- `a << k`: a × 2^k (00_scope.md R5). -/
def shl (a : Int) (k : Nat) : Int := a * 2 ^ k

/-- `clamp(lo, hi, a)` (00_scope.md R5). -/
def clamp (lo hi a : Int) : Int := if a < lo then lo else if hi < a then hi else a

/-- OPA ← v (20_memory.md R44). -/
def State.setOpa (s : State) (v : Word) : State := { s with opa := v }

/-- OPB ← v (20_memory.md R44). -/
def State.setOpb (s : State) (v : Word) : State := { s with opb := v }

/-- OPC ← v (20_memory.md R44). -/
def State.setOpc (s : State) (v : Word) : State := { s with opc := v }

/-- A brightness write: BRT ← v[7:0], and BCHG is set when that changes BRT (43_scale.md R112, R113). -/
def State.writeBrt (s : State) (v : Word) : State :=
  { s with brt := lowByte v, bchg := s.bchg || lowByte v != s.brt }

/-- A write of STATUS: a 1 in bit 8 clears BCHG, a 1 in bit 9 clears ILL, every other bit is ignored
(10_state.md R27). -/
def State.clearSticky (s : State) (v : Word) : State :=
  { s with bchg := s.bchg && !v.getLsbD 8, ill := s.ill && !v.getLsbD 9 }

/-- `set ILL`: all that an illegal command word or an illegal access changes (40_command.md R71, 20_memory.md R45). -/
def State.setIll (s : State) : State := { s with ill := true }

/-- All that a computing command writes: RES and the four ADJ bits (40_command.md R70). -/
def State.setResult (s : State) (r : Color) (a : Adj) : State :=
  { s with res := r, hadj := a.hadj, sadj := a.sadj, ladj := a.ladj, madj := a.madj }

/-- A read's value goes to the host (20_memory.md R43). -/
def State.returnWord (s : State) (v : Word) : State := { s with returned := v :: s.returned }

/-- The events left after the one being taken. -/
def State.setPending (s : State) (es : List Event) : State := { s with pending := es }

/-- A reset: every register takes its reset value (70_reset_and_hazards.md R130). The platform's base address, the
host's events still to come and what the host has read are not the unit's, and stay (log entry 8). -/
def State.resetRegisters (s : State) : State :=
  { State.reset with base := s.base, pending := s.pending, returned := s.returned }

end Sys2Proof.Machine
end

