-- ==== Sys2Proof/Machine/Command.lean ====
section
/-! DEFINITION. NOP (40_command.md R72). -/

namespace Sys2Proof.Machine

/-- NOP changes no state (40_command.md R72). -/
def execNop (s : State) : Host.Outcome State Fault Refusal := .next s

end Sys2Proof.Machine
end

