-- ==== Sys2Proof/Machine/PackUnpack.lean ====
section
/-! DEFINITION. The packer and the unpacker (41_pack_unpack.md). -/

namespace Sys2Proof.Machine

/-- The packing function: the low byte of each channel, red highest (41_pack_unpack.md R80). Masking, not saturation
(90_conflicts.md C2). -/
def pack (r g b : Word) : Color := lowByte r ++ lowByte g ++ lowByte b

/-- PACK (41_pack_unpack.md R81). -/
def execPack (s : State) : Host.Outcome State Fault Refusal :=
  .next (s.setResult (pack s.opa s.opb s.opc) (packAdj s))

/-- UNPACKR (41_pack_unpack.md R82). -/
def execUnpackr (s : State) : Host.Outcome State Fault Refusal :=
  .next (s.setResult (zextChannel (redOf s.opa)) (colorAdj s))

/-- UNPACKG (41_pack_unpack.md R83). -/
def execUnpackg (s : State) : Host.Outcome State Fault Refusal :=
  .next (s.setResult (zextChannel (greenOf s.opa)) (colorAdj s))

/-- UNPACKB (41_pack_unpack.md R84). -/
def execUnpackb (s : State) : Host.Outcome State Fault Refusal :=
  .next (s.setResult (zextChannel (blueOf s.opa)) (colorAdj s))

end Sys2Proof.Machine
end

