-- ==== Sys2Proof/Machine/Hsl.lean ====
section
/-! DEFINITION. The HSL-to-RGB converter (42_hsl.md), over unbounded integers as 00_scope.md R5 has it, and after it the
same conversion in the unsigned widths of R101. -/

namespace Sys2Proof.Machine

/-- Hue reduction, h' (42_hsl.md R90). -/
def reduceHue (h : Int) : Int := emod h 360

/-- Saturation and lightness clamp, s' and l' (42_hsl.md R91). -/
def clampPercent (a : Int) : Int := clamp 0 99 a

/-- Chroma c, from l' and s' (42_hsl.md R92). -/
def chroma (l' s' : Int) : Int := idiv ((100 - iabs (2 * l' - 100)) * s' * 256) 10000

/-- Sector h1, from h' (42_hsl.md R93). -/
def sector (h' : Int) : Int := idiv h' 60

/-- Position within the sector as an 8-bit fraction, h2 (42_hsl.md R94). UNVERIFIED (log entry 7): the spec marks
this rule as general knowledge. -/
def sectorFraction (h' : Int) : Int := idiv ((h' - 60 * sector h') * 256) 60

/-- The falling or rising distance temp, from h' (42_hsl.md R95). UNVERIFIED (log entry 7). -/
def sectorDistance (h' : Int) : Int := iabs (shl (emod (sector h') 2) 8 + sectorFraction h' - 256)

/-- Second-largest component x, from c and h' (42_hsl.md R95). UNVERIFIED (log entry 7). -/
def secondLargest (c h' : Int) : Int := shr (c * (256 - sectorDistance h')) 8

/-- The sector table (r', g', b') (42_hsl.md R96). UNVERIFIED (log entry 7). Sectors are 0 to 5, so the last row
stands for sector 5. -/
def sectorTable (h1 c x : Int) : Int × Int × Int :=
  if h1 = 0 then (c, x, 0)
  else if h1 = 1 then (x, c, 0)
  else if h1 = 2 then (0, c, x)
  else if h1 = 3 then (0, x, c)
  else if h1 = 4 then (x, 0, c)
  else (c, 0, x)

/-- Lightness offset m, from l' and c (42_hsl.md R97). -/
def lightnessOffset (l' c : Int) : Int := idiv (idiv (l' * 2 * 256) 100 - c) 2

/-- The channels (R, G, B) of reduced inputs (42_hsl.md R98). -/
def hslChannels (h' s' l' : Int) : Int × Int × Int :=
  let c := chroma l' s'
  let t := sectorTable (sector h') c (secondLargest c h')
  let m := lightnessOffset l' c
  (t.1 + m, t.2.1 + m, t.2.2 + m)

/-- The conversion function (42_hsl.md R99). -/
def hsl (h s l : Int) : Color :=
  let rgb := hslChannels (reduceHue h) (clampPercent s) (clampPercent l)
  pack (BitVec.ofInt 32 rgb.1) (BitVec.ofInt 32 rgb.2.1) (BitVec.ofInt 32 rgb.2.2)

/-- HSL (42_hsl.md R100). -/
def execHsl (s : State) : Host.Outcome State Fault Refusal :=
  .next (s.setResult (hsl (sint s.opa) (sint s.opb) (sint s.opc)) (hslAdj s))

/-- The distance of two unsigned numbers. -/
def absDiff {n : Nat} (a b : BitVec n) : BitVec n := if a < b then b - a else a - b

/-- c in the widths of 42_hsl.md R101: a 22-bit dividend, an 8-bit quotient. -/
def chromaNarrow (l s : BitVec 7) : BitVec 8 :=
  (((100 - absDiff (2 * l.setWidth 22) 100) * s.setWidth 22 * 256) / 10000).setWidth 8

/-- h1 in 3 bits (42_hsl.md R101). -/
def sectorNarrow (h : BitVec 9) : BitVec 3 := (h / 60).setWidth 3

/-- h2 in 8 bits, from a 14-bit dividend (42_hsl.md R101). -/
def fractionNarrow (h : BitVec 9) : BitVec 8 :=
  (((h - 60 * (sectorNarrow h).setWidth 9).setWidth 14 * 256) / 60).setWidth 8

/-- temp in 9 bits (42_hsl.md R101). -/
def distanceNarrow (h : BitVec 9) : BitVec 9 :=
  absDiff ((((sectorNarrow h).setWidth 9 % 2) <<< 8) + (fractionNarrow h).setWidth 9) 256

/-- x in 8 bits, from a 16-bit product (42_hsl.md R101). -/
def secondNarrow (c : BitVec 8) (h : BitVec 9) : BitVec 8 :=
  ((c.setWidth 16 * (256 - distanceNarrow h).setWidth 16) >>> 8).setWidth 8

/-- m in 8 bits, from a 16-bit product and a 9-bit quotient (42_hsl.md R101). -/
def offsetNarrow (l : BitVec 7) (c : BitVec 8) : BitVec 8 :=
  ((((l.setWidth 16 * 512) / 100).setWidth 9 - c.setWidth 9) / 2).setWidth 8

/-- The sector table on 8-bit components (42_hsl.md R96, R101). -/
def tableNarrow (h1 : BitVec 3) (c x : BitVec 8) : Byte × Byte × Byte :=
  if h1 = 0 then (c, x, 0)
  else if h1 = 1 then (x, c, 0)
  else if h1 = 2 then (0, c, x)
  else if h1 = 3 then (0, x, c)
  else if h1 = 4 then (x, 0, c)
  else (c, 0, x)

/-- The conversion with every intermediate in the unsigned width 42_hsl.md R101 gives it, from a reduced hue and
clamped percentages. -/
def hslNarrow (h : BitVec 9) (s l : BitVec 7) : Color :=
  let c := chromaNarrow l s
  let t := tableNarrow (sectorNarrow h) c (secondNarrow c h)
  let m := offsetNarrow l c
  (t.1 + m) ++ (t.2.1 + m) ++ (t.2.2 + m)

end Sys2Proof.Machine
end

