-- ==== Sys2Proof/Machine/Scale.lean ====
section
/-! DEFINITION. The scale unit (43_scale.md). -/

namespace Sys2Proof.Machine

/-- The scaling function of one channel (43_scale.md R110). The product needs 16 bits, so it is formed as a number. -/
def scale8 (ch br : Byte) : Byte :=
  if br.toNat < 255 then BitVec.ofNat 8 ((ch.toNat * br.toNat) >>> 8) else ch

/-- The three channels of a Color scaled independently (43_scale.md R111). -/
def scaleColor (c : Word) (br : Byte) : Color :=
  pack ((scale8 (redOf c) br).setWidth 32) ((scale8 (greenOf c) br).setWidth 32)
    ((scale8 (blueOf c) br).setWidth 32)

/-- SCALE (43_scale.md R111). -/
def execScale (s : State) : Host.Outcome State Fault Refusal :=
  .next (s.setResult (scaleColor s.opa s.brt) (colorAdj s))

/-- SCALECH (43_scale.md R114). -/
def execScalech (s : State) : Host.Outcome State Fault Refusal :=
  .next (s.setResult (zextChannel (scale8 (lowByte s.opa) s.brt)) (channelAdj s))

end Sys2Proof.Machine
end

