-- ==== Sys2Proof/Machine/Dispatch.lean ====
section
/-! DEFINITION. The dispatch from a decoded command to its meaning (40_command.md R70). -/

namespace Sys2Proof.Machine

def exec (i : Instr) (s : State) : Host.Outcome State Fault Refusal :=
  match i with
  | .nop => Sys2Proof.Machine.execNop s
  | .pack => Sys2Proof.Machine.execPack s
  | .unpackr => Sys2Proof.Machine.execUnpackr s
  | .unpackg => Sys2Proof.Machine.execUnpackg s
  | .unpackb => Sys2Proof.Machine.execUnpackb s
  | .hsl => Sys2Proof.Machine.execHsl s
  | .scale => Sys2Proof.Machine.execScale s
  | .scalech => Sys2Proof.Machine.execScalech s

end Sys2Proof.Machine
end

