-- ==== Sys2Proof/Machine/Bus.lean ====
section
/-! DEFINITION. The register window and the bus events (20_memory.md): which accesses are legal, what each read returns
and each write does, a command write, a reset, and one step. -/

namespace Sys2Proof.Machine

/-- The offset of each register from CCU_BASE (10_state.md section 1). -/
def Reg.offset : Reg → Nat
  | .cmd => 0x00
  | .opa => 0x04
  | .opb => 0x08
  | .opc => 0x0C
  | .brt => 0x10
  | .res => 0x14
  | .status => 0x18

/-- The register at an offset, if a legal access can have that offset (20_memory.md R41). Offset 0x1C is reserved
(20_memory.md R46), and every offset that is no multiple of 4 is misaligned (R45). -/
def regAt (off : Nat) : Option Reg :=
  match off with
  | 0x00 => some .cmd
  | 0x04 => some .opa
  | 0x08 => some .opb
  | 0x0C => some .opc
  | 0x10 => some .brt
  | 0x14 => some .res
  | 0x18 => some .status
  | _ => none

/-- The address belongs to the unit (20_memory.md R40). An access is in the window when its first byte is
(log entry 4). -/
def State.inWindow (s : State) (addr : Nat) : Bool :=
  decide (s.base ≤ addr) && decide (addr < s.base + Config.windowBytes)

/-- The register a legal access reaches; none for an illegal access inside the window (20_memory.md R41, R45, R46). -/
def State.target (s : State) (addr width : Nat) : Option Reg :=
  if width = Config.accessBytes then regAt (addr - s.base) else none

/-- What a legal read returns (20_memory.md R43). -/
def State.readReg (s : State) : Reg → Word
  | .cmd => 0
  | .opa => s.opa
  | .opb => s.opb
  | .opc => s.opc
  | .brt => s.brt.setWidth 32
  | .res => s.res.setWidth 32
  | .status => s.statusWord

/-- A write to CMD: the command that the word encodes, or ILL (40_command.md R70, R71). -/
def commandWrite (w : Word) (s : State) : Host.Outcome State Fault Refusal :=
  match decodeWord w with
  | .ok i => exec i s
  | .error _ => .next s.setIll

/-- What a legal write does (20_memory.md R44). -/
def writeReg (r : Reg) (v : Word) (s : State) : Host.Outcome State Fault Refusal :=
  match r with
  | .cmd => commandWrite v s
  | .opa => .next (s.setOpa v)
  | .opb => .next (s.setOpb v)
  | .opc => .next (s.setOpc v)
  | .brt => .next (s.writeBrt v)
  | .res => .next s
  | .status => .next (s.clearSticky v)

/-- A host read: legal (20_memory.md R43), illegal inside the window (R45, R46: it returns 0 and sets ILL), or outside
the window (R40). -/
def hostRead (addr width : Nat) (s : State) : Host.Outcome State Fault Refusal :=
  if s.inWindow addr then
    match s.target addr width with
    | some r => .next (s.returnWord (s.readReg r))
    | none => .next (s.setIll.returnWord 0)
  else .refused .outsideWindow

/-- A host write: legal (20_memory.md R44), illegal inside the window (R45, R46: it only sets ILL), or outside the
window (R40). -/
def hostWrite (addr width : Nat) (v : Word) (s : State) : Host.Outcome State Fault Refusal :=
  if s.inWindow addr then
    match s.target addr width with
    | some r => writeReg r v s
    | none => .next s.setIll
  else .refused .outsideWindow

/-- One bus event (20_memory.md R48). -/
def runEvent (e : Event) (s : State) : Host.Outcome State Fault Refusal :=
  match e with
  | .access (.read addr width) => hostRead addr width s
  | .access (.write addr width v) => hostWrite addr width v s
  | .reset _ => .next s.resetRegisters
  | .otherMaster _ => .refused .secondMaster

/-- One step: the next bus event, taken off the list and run as one indivisible step (20_memory.md R48, R49). With no
event to come the unit holds its registers (60_exceptions.md R128; log entry 5). -/
def takeStep (s : State) : Host.Outcome State Fault Refusal :=
  match s.pending with
  | [] => .next s
  | e :: rest => runEvent e (s.setPending rest)

/-- The write of a command word to CMD, for a unit at `base` (40_command.md R70). -/
def commandEvent (base : Nat) (w : Word) : Event :=
  .access (.write (base + Reg.offset .cmd) Config.accessBytes w)

/-- The state with a command word as the next event (log entry 6). -/
def State.placeCommand (s : State) (w : Word) : State :=
  s.setPending (commandEvent s.base w :: s.pending)

end Sys2Proof.Machine
end

