-- ==== Sys2Proof/Machine/Step.lean ====
section
/-! DEFINITION. One step of the machine, and how a command word is placed where the next step takes it. -/

namespace Sys2Proof.Machine

/-- One step (20_memory.md R48). -/
def step (s : State) : Host.Outcome State Fault Refusal := takeStep s

/-- The state whose next step runs the command word: a write of it to CMD comes before the events still to come
(log entry 6). -/
def State.withFetchWord (s : State) (nbits w : Nat) : State :=
  s.placeCommand (BitVec.ofNat 32 (w % 2 ^ nbits))

end Sys2Proof.Machine
end

