-- ==== Sys2Proof/Machine/Asm.lean ====
section
/-! DEFINITION. The host-level assembly (30_encoding.md R65) and its pseudo-instructions (R66), as bus events. -/

namespace Sys2Proof.Machine

/-- One line of host assembly (30_encoding.md R65). A value is decimal or hexadecimal; a negative one stands for its
two's complement. -/
inductive AsmLine where
  /-- `wr <REG>, <value>`. -/
  | wr (r : Reg) (value : Int)
  /-- `rd <REG>`. -/
  | rd (r : Reg)
  /-- `cmd <MNEMONIC>`. -/
  | cmd (i : Instr)
  /-- `wr @<off>, <value>`. -/
  | wrRaw (off : Nat) (value : Int)
  /-- `rd @<off>`. -/
  | rdRaw (off : Nat)
  deriving DecidableEq, Repr

/-- The 32-bit word of a value (30_encoding.md R65). -/
def valueWord (value : Int) : Word := BitVec.ofInt 32 value

/-- The numbers of a line are in range (30_encoding.md R65). -/
def AsmLine.wellFormed : AsmLine → Bool
  | .wr _ value => valueWellFormed value
  | .rd _ => true
  | .cmd _ => true
  | .wrRaw off value => offsetWellFormed off && valueWellFormed value
  | .rdRaw off => offsetWellFormed off

/-- The access of a line, for a unit at `base` (30_encoding.md R65). -/
def AsmLine.event (base : Nat) : AsmLine → Event
  | .wr r value => .access (.write (base + r.offset) Config.accessBytes (valueWord value))
  | .rd r => .access (.read (base + r.offset) Config.accessBytes)
  | .cmd i => .access (.write (base + Reg.offset .cmd) Config.accessBytes (encode i))
  | .wrRaw off value => .access (.write (base + off) Config.accessBytes (valueWord value))
  | .rdRaw off => .access (.read (base + off) Config.accessBytes)

/-- One hexadecimal digit. -/
def hexDigit (n : Nat) : Char := if n < 10 then Char.ofNat (48 + n) else Char.ofNat (55 + n)

/-- `digits` hexadecimal digits of a number, the highest first. -/
def hexDigits : Nat → Nat → List Char
  | 0, _ => []
  | digits + 1, n => hexDigits digits (n / 16) ++ [hexDigit (n % 16)]

/-- `W <off> <value as 8 hex digits>` (30_encoding.md R65). -/
def writeListing (off : Nat) (v : Word) : List Char :=
  'W' :: ' ' :: hexDigits 2 off ++ ' ' :: hexDigits 8 v.toNat

/-- `R <off>` (30_encoding.md R65). -/
def readListing (off : Nat) : List Char := 'R' :: ' ' :: hexDigits 2 off

/-- A line's encoding in a listing (30_encoding.md R65). -/
def AsmLine.listing : AsmLine → List Char
  | .wr r value => writeListing r.offset (valueWord value)
  | .rd r => readListing r.offset
  | .cmd i => writeListing (Reg.offset .cmd) (encode i)
  | .wrRaw off value => writeListing off (valueWord value)
  | .rdRaw off => readListing off

/-- A pseudo-instruction (30_encoding.md R66). -/
inductive Pseudo where
  | pack (r g b : Int)
  | unpackr (c : Int)
  | unpackg (c : Int)
  | unpackb (c : Int)
  | hsl (h s l : Int)
  | scale (c : Int)
  | scalech (v : Int)
  | setbrt (v : Int)
  | clrst
  | nop
  deriving DecidableEq, Repr

/-- The lines a pseudo-instruction stands for, in order (30_encoding.md R66). -/
def Pseudo.lines : Pseudo → List AsmLine
  | .pack r g b => [.wr .opa r, .wr .opb g, .wr .opc b, .cmd .pack]
  | .unpackr c => [.wr .opa c, .cmd .unpackr]
  | .unpackg c => [.wr .opa c, .cmd .unpackg]
  | .unpackb c => [.wr .opa c, .cmd .unpackb]
  | .hsl h s l => [.wr .opa h, .wr .opb s, .wr .opc l, .cmd .hsl]
  | .scale c => [.wr .opa c, .cmd .scale]
  | .scalech v => [.wr .opa v, .cmd .scalech]
  | .setbrt v => [.wr .brt v]
  | .clrst => [.wr .status 0x300]
  | .nop => [.cmd .nop]

/-- The bus events of a pseudo-instruction, for a unit at `base`. -/
def Pseudo.events (base : Nat) (p : Pseudo) : List Event := p.lines.map (AsmLine.event base)

end Sys2Proof.Machine
end

