-- ==== Sys2Proof/Safety.lean ====
section
/-! DEFINITION. The terms claims use: which bus events the model runs, which ones the spec calls illegal, the
invariant of the machine, a result's frame, and a unit moved to another base address. -/

namespace Sys2Proof.Machine

/-- `n` steps of the machine, stopping at the first refusal. -/
def run : Nat → State → Host.Outcome State Fault Refusal
  | 0, s => .next s
  | n + 1, s =>
    match step s with
    | .next t => run n t
    | .fault r => .fault r
    | .refused r => .refused r

/-- An event the model has a meaning for: a reset, or an access of the host inside the window
(20_memory.md R40, R54), sorted by its first byte (log entry 4). -/
def Event.admitted (base : Nat) : Event → Bool
  | .access (.read addr _) => decide (base ≤ addr) && decide (addr < base + 0x20)
  | .access (.write addr _ _) => decide (base ≤ addr) && decide (addr < base + 0x20)
  | .reset _ => true
  | .otherMaster _ => false

/-- A run is safe when no event in it is refused: every event to come is admitted. -/
def State.Safe (s : State) : Prop := ∀ e ∈ s.pending, e.admitted s.base = true

/-- An access inside the window that is not one of 20_memory.md R41's: its width is not 4, its address is no multiple
of 4 (R45), or it is at the reserved word (R46). It is inside the window when its first byte is (log entry 4). -/
def IllegalAccess (base addr width : Nat) : Prop :=
  base ≤ addr ∧ addr < base + 0x20 ∧ (width ≠ 4 ∨ addr % 4 ≠ 0 ∨ addr = base + 0x1C)

/-- What 60_exceptions.md R120 says sets ILL: an illegal access, or a command word with OP ≥ 8 or with bits [31:4] not
all 0. -/
def Event.IsIllegal (base : Nat) : Event → Prop
  | .access (.read addr width) => IllegalAccess base addr width
  | .access (.write addr width v) =>
    IllegalAccess base addr width ∨ (addr = base ∧ width = 4 ∧ (8 ≤ v.toNat % 16 ∨ v.toNat / 16 ≠ 0))
  | .reset _ => False
  | .otherMaster _ => False

/-- A legal write of `v` to the register at offset `off` (20_memory.md R41). -/
def Event.IsWrite (base off : Nat) (v : Word) (e : Event) : Prop := e = .access (.write (base + off) 4 v)

/-- A reset, by either cause. -/
def Event.IsReset (e : Event) : Prop := ∃ c, e = .reset c

/-- The four ADJ bits of a state, as the flags file groups them. -/
def State.adj (s : State) : Adj := ⟨s.hadj, s.sadj, s.ladj, s.madj⟩

/-- `t` differs from `s` in RES and the ADJ bits alone (40_command.md R70, 00_scope.md R7). -/
def ResultFrame (s t : State) : Prop :=
  t = { s with res := t.res, hadj := t.hadj, sadj := t.sadj, ladj := t.ladj, madj := t.madj }

/-- The invariant of the machine. -/
structure State.Inv (s : State) : Prop where
  /-- CCU_BASE is 4-byte aligned (00_scope.md section 3). -/
  base_aligned : s.base % 4 = 0
  /-- A command that masks adjusts nothing else, and HSL never masks (40_command.md R73). -/
  madj_alone : s.madj = true → s.hadj = false ∧ s.sadj = false ∧ s.ladj = false
  /-- RES and the ADJ bits are those of ONE command other than NOP, on some operands and some brightness: no step
  mixes two commands' results (40_command.md R70; PACK of zeros stands for the reset values). -/
  one_command : ∃ (i : Instr) (u v : State),
    i ≠ .nop ∧ exec i u = .next v ∧ v.res = s.res ∧ v.adj = s.adj

/-- An access at an address `d` higher. -/
def Access.shift (d : Nat) : Access → Access
  | .read addr width => .read (addr + d) width
  | .write addr width v => .write (addr + d) width v

/-- An event at an address `d` higher. -/
def Event.shift (d : Nat) : Event → Event
  | .access a => .access (a.shift d)
  | .reset c => .reset c
  | .otherMaster a => .otherMaster (a.shift d)

/-- The unit and everything the host will ask of it moved `d` bytes up (00_scope.md R3; an address never wraps, log entry 10). -/
def State.shift (d : Nat) (s : State) : State :=
  { s with base := s.base + d, pending := s.pending.map (Event.shift d) }

/-- An outcome with its state moved `d` bytes up. -/
def shiftOutcome (d : Nat) : Host.Outcome State Fault Refusal → Host.Outcome State Fault Refusal
  | .next s => .next (s.shift d)
  | .fault f => .fault f
  | .refused r => .refused r

end Sys2Proof.Machine
end

