-- ==== Sys2Proof/Certificates/Slice0/Obligations.lean ====
section
/-! DEFINITION. The statements about the unit, in the spec's own arithmetic where the spec gives one. -/

open Sys2Proof Sys2Proof.Machine

/-! ## Reset -/

/-- 70_reset_and_hazards.md R130: every register's reset value, and the STATUS word right after reset. -/
def Obligations.ResetStateHoldsTheSpecValues : Prop :=
  State.reset.opa = 0 ∧ State.reset.opb = 0 ∧ State.reset.opc = 0 ∧ State.reset.brt.toNat = 255 ∧
    State.reset.res = 0 ∧ State.reset.hadj = false ∧ State.reset.sadj = false ∧
    State.reset.ladj = false ∧ State.reset.madj = false ∧ State.reset.bchg = false ∧
    State.reset.ill = false ∧ State.reset.z = true ∧ State.reset.statusWord = 0x00000001

/-- 70_reset_and_hazards.md section 1 and 60_exceptions.md section 6: a power-on or a reset signal brings every register
to its reset value from any state. That the base address, the host's events and what it has read stay is the model's
choice (log entry 8). -/
def Obligations.ResetEventEntersTheResetState : Prop :=
  ∀ (s : State) (c : ResetCause) (rest : List Event), s.pending = .reset c :: rest →
    ∃ t, step s = .next t ∧ t.opa = 0 ∧ t.opb = 0 ∧ t.opc = 0 ∧ t.brt.toNat = 255 ∧ t.res = 0 ∧
      t.hadj = false ∧ t.sadj = false ∧ t.ladj = false ∧ t.madj = false ∧ t.bchg = false ∧
      t.ill = false ∧ t.statusWord = 0x00000001 ∧
      t.base = s.base ∧ t.pending = rest ∧ t.returned = s.returned

/-! ## Encoding -/

/-- 30_encoding.md R62: the eight rows of the opcode map. A word stands for a row's command exactly when ALL its 32 bits
match the row's word, the mask 0xFFFFFFFF. -/
def Obligations.OpcodeWordsDecode : Prop :=
  ∀ w : Word,
    (decodeWord w = .ok .nop ↔ w &&& 0xFFFFFFFF = 0x00000000) ∧
      (decodeWord w = .ok .pack ↔ w &&& 0xFFFFFFFF = 0x00000001) ∧
      (decodeWord w = .ok .unpackr ↔ w &&& 0xFFFFFFFF = 0x00000002) ∧
      (decodeWord w = .ok .unpackg ↔ w &&& 0xFFFFFFFF = 0x00000003) ∧
      (decodeWord w = .ok .unpackb ↔ w &&& 0xFFFFFFFF = 0x00000004) ∧
      (decodeWord w = .ok .hsl ↔ w &&& 0xFFFFFFFF = 0x00000005) ∧
      (decodeWord w = .ok .scale ↔ w &&& 0xFFFFFFFF = 0x00000006) ∧
      (decodeWord w = .ok .scalech ↔ w &&& 0xFFFFFFFF = 0x00000007)

/-- 30_encoding.md sections 1 and 3: decoding and encoding are inverse both ways, on words and on the bytes of the bus.
Each command has exactly one word, and no other word or list of bytes decodes to it. -/
def Obligations.DecodeAndEncodeAgree : Prop :=
  (∀ (w : Word) (i : Instr), decodeWord w = .ok i ↔ w = encode i) ∧
    ∀ (bs : List Byte) (i : Instr), decodeBytes bs = .ok i ↔ bs = encodeBytes i

/-- 30_encoding.md R60: a word is legal if and only if RSV = 0 and OP ≤ 7; every other word is illegal, and the decoder
answers for every word. -/
def Obligations.LegalWordsAreThoseOfR60 : Prop :=
  ∀ w : Word,
    ((∃ i, decodeWord w = .ok i) ↔ w.toNat / 2 ^ 4 = 0 ∧ w.toNat % 2 ^ 4 ≤ 7) ∧
      ((∃ e, decodeWord w = .error e) ↔ ¬(w.toNat / 2 ^ 4 = 0 ∧ w.toNat % 2 ^ 4 ≤ 7))

/-- 40_command.md R71: a command word with OP ≥ 8 or with bits [31:4] not all 0 sets ILL and does nothing else; the corner
case 0x00000011, and the example. -/
def Obligations.IllegalCommandOnlySetsIll : Prop :=
  (∀ (s : State) (w : Word) (rest : List Event),
    s.pending = .access (.write s.base 4 w) :: rest → (8 ≤ w.toNat % 16 ∨ w.toNat / 16 ≠ 0) →
      step s = .next { s with pending := rest, ill := true }) ∧
    (∀ (s : State) (rest : List Event), s.pending = .access (.write s.base 4 0x00000011) :: rest →
      step s = .next { s with pending := rest, ill := true }) ∧
    ∀ (s : State) (rest : List Event), s.pending = .access (.write s.base 4 0x8) :: rest →
      s.res = 0x123456 → s.ill = false →
      ∃ t, step s = .next t ∧ t.res = 0x123456 ∧ t.ill = true

/-- 40_command.md (command execution): a step whose next event writes to CMD the bytes of a legal command is `exec` of that
command, at the state with the event taken off. The bytes are the word's lanes by 20_memory.md section 2. The second
clause is the model's choice (log entry 6), not the spec's: `withFetchWord` puts one such write before the events to
come, so the step after it is `exec` of the command at the state itself. -/
def Obligations.StepRunsTheDecodedCommand : Prop :=
  (∀ (s : State) (w : Word) (i : Instr) (rest : List Event),
    s.pending = .access (.write s.base 4 w) :: rest → decodeBytes (lanes w) = .ok i →
      step s = exec i { s with pending := rest }) ∧
    ∀ (s : State) (w : Nat) (i : Instr), decodeTableWord 32 w = some i →
      step (s.withFetchWord 32 w) = exec i s

/-- 20_memory.md section 2 (byte order): lane k carries bits [8k+7 : 8k], and the word made of four bytes has them as its
lanes, in the same order. -/
def Obligations.ByteLanesAreLittleEndian : Prop :=
  (∀ (v : Word) (k : Nat), k < 4 → (lane v k).toNat = v.toNat / 2 ^ (8 * k) % 256) ∧
    ∀ b0 b1 b2 b3 : Byte, lanes (wordOfLanes b0 b1 b2 b3) = [b0, b1, b2, b3]

/-! ## Commands -/

/-- 40_command.md R72: NOP has word 0x00000000 and changes no state. -/
def Obligations.NopChangesNothing : Prop :=
  encode .nop = 0x00000000 ∧ ∀ s : State, exec .nop s = .next s

/-- 41_pack_unpack.md R80 and R81: PACK's word, its result as the shifts and masks of R80, its flags, what it leaves
alone, and its corner cases and example. -/
def Obligations.PackResult : Prop :=
  encode .pack = 0x00000001 ∧
    (∀ s : State, ∃ t, exec .pack s = .next t ∧ ResultFrame s t ∧
      t.res.toNat = ((s.opa.toNat &&& 0xFF) <<< 16) ||| ((s.opb.toNat &&& 0xFF) <<< 8) |||
        (s.opc.toNat &&& 0xFF) ∧
      (t.madj = true ↔ s.opa.toNat / 256 ≠ 0 ∨ s.opb.toNat / 256 ≠ 0 ∨ s.opc.toNat / 256 ≠ 0) ∧
      t.hadj = false ∧ t.sadj = false ∧ t.ladj = false ∧ (t.z = true ↔ t.res = 0)) ∧
    ∀ s t : State, exec .pack s = .next t →
      (s.opa = 0 → s.opb = 0 → s.opc = 0 → t.res = 0 ∧ t.z = true) ∧
      (s.opa = 256 → t.res.toNat / 2 ^ 16 = 0 ∧ t.madj = true) ∧
      (s.opb = 256 → t.res.toNat / 2 ^ 8 % 256 = 0 ∧ t.madj = true) ∧
      (s.opc = 256 → t.res.toNat % 256 = 0 ∧ t.madj = true) ∧
      (s.opa = 0xFFFFFFFF → t.res.toNat / 2 ^ 16 = 0xFF ∧ t.madj = true) ∧
      (s.opb = 0xFFFFFFFF → t.res.toNat / 2 ^ 8 % 256 = 0xFF ∧ t.madj = true) ∧
      (s.opc = 0xFFFFFFFF → t.res.toNat % 256 = 0xFF ∧ t.madj = true) ∧
      (s.opa = 0xFFFFFFFF → s.opb = 0xFFFFFFFF → s.opc = 0xFFFFFFFF → t.res = 0xFFFFFF ∧ t.madj = true) ∧
      (s.opa = 0x8A → s.opb = 0x2B → s.opc = 0xE2 → t.res = 0x8A2BE2 ∧ t.madj = false)

/-- 41_pack_unpack.md R82, R83 and R84: the words of UNPACKR, UNPACKG and UNPACKB, each result as its byte of OPA, the
flags, what each leaves alone, and the examples. -/
def Obligations.UnpackResults : Prop :=
  encode .unpackr = 0x00000002 ∧ encode .unpackg = 0x00000003 ∧ encode .unpackb = 0x00000004 ∧
    (∀ s : State,
      (∃ t, exec .unpackr s = .next t ∧ ResultFrame s t ∧ t.res.toNat = s.opa.toNat / 2 ^ 16 % 256 ∧
        (t.madj = true ↔ s.opa.toNat / 2 ^ 24 ≠ 0) ∧ t.hadj = false ∧ t.sadj = false ∧ t.ladj = false ∧
        (t.z = true ↔ s.opa.toNat / 2 ^ 16 % 256 = 0)) ∧
      (∃ t, exec .unpackg s = .next t ∧ ResultFrame s t ∧ t.res.toNat = s.opa.toNat / 2 ^ 8 % 256 ∧
        (t.madj = true ↔ s.opa.toNat / 2 ^ 24 ≠ 0) ∧ t.hadj = false ∧ t.sadj = false ∧ t.ladj = false ∧
        (t.z = true ↔ s.opa.toNat / 2 ^ 8 % 256 = 0)) ∧
      (∃ t, exec .unpackb s = .next t ∧ ResultFrame s t ∧ t.res.toNat = s.opa.toNat % 256 ∧
        (t.madj = true ↔ s.opa.toNat / 2 ^ 24 ≠ 0) ∧ t.hadj = false ∧ t.sadj = false ∧ t.ladj = false ∧
        (t.z = true ↔ s.opa.toNat % 256 = 0))) ∧
    (∀ s t : State, s.opa = 0xFF3300 → exec .unpackr s = .next t → t.res = 0x0000FF) ∧
    (∀ s t : State, s.opa = 0xFF3300 → exec .unpackg s = .next t → t.res = 0x000033) ∧
    ∀ s t : State, s.opa = 0x8A2BE2 → exec .unpackb s = .next t → t.res = 0x0000E2

/-- 42_hsl.md (the function and the command): HSL's word, its result in the integer arithmetic of the rules, with no
masking of any channel, its flags, and what it leaves alone. It rests on the second-largest component and the sector
table, which the spec marks as general knowledge (log entry 7). -/
def Obligations.HslResult : Prop :=
  encode .hsl = 0x00000005 ∧
    ∀ s : State, ∃ t, exec .hsl s = .next t ∧ ResultFrame s t ∧
      (∀ h' s' l' c h1 h2 temp x m : Int,
        h' = s.opa.toInt % 360 → s' = max 0 (min 99 s.opb.toInt) → l' = max 0 (min 99 s.opc.toInt) →
        c = (100 - |2 * l' - 100|) * s' * 256 / 10000 →
        h1 = h' / 60 → h2 = (h' - 60 * h1) * 256 / 60 →
        temp = |h1 % 2 * 256 + h2 - 256| → x = c * (256 - temp) / 256 →
        m = (l' * 2 * 256 / 100 - c) / 2 →
          (h1 = 0 → (t.res.toNat : Int) = (c + m) * 65536 + (x + m) * 256 + m) ∧
          (h1 = 1 → (t.res.toNat : Int) = (x + m) * 65536 + (c + m) * 256 + m) ∧
          (h1 = 2 → (t.res.toNat : Int) = m * 65536 + (c + m) * 256 + (x + m)) ∧
          (h1 = 3 → (t.res.toNat : Int) = m * 65536 + (x + m) * 256 + (c + m)) ∧
          (h1 = 4 → (t.res.toNat : Int) = (x + m) * 65536 + m * 256 + (c + m)) ∧
          (h1 = 5 → (t.res.toNat : Int) = (c + m) * 65536 + m * 256 + (x + m)) ∧
          0 ≤ h1 ∧ h1 ≤ 5) ∧
      (t.hadj = true ↔ s.opa.toInt < 0 ∨ 359 < s.opa.toInt) ∧
      (t.sadj = true ↔ s.opb.toInt < 0 ∨ 99 < s.opb.toInt) ∧
      (t.ladj = true ↔ s.opc.toInt < 0 ∨ 99 < s.opc.toInt) ∧ t.madj = false

/-- 43_scale.md R111: SCALE's word, each channel of its result scaled by R110 in its own lane, its flags, what it leaves
alone, and its corner cases and example. -/
def Obligations.ScaleResult : Prop :=
  encode .scale = 0x00000006 ∧
    (∀ s : State, ∃ t, exec .scale s = .next t ∧ ResultFrame s t ∧
      (∀ r g b : Nat, r = s.opa.toNat / 2 ^ 16 % 256 → g = s.opa.toNat / 2 ^ 8 % 256 → b = s.opa.toNat % 256 →
        (s.brt.toNat < 255 → t.res.toNat =
          r * s.brt.toNat / 256 * 2 ^ 16 + g * s.brt.toNat / 256 * 2 ^ 8 + b * s.brt.toNat / 256) ∧
        (s.brt.toNat = 255 → t.res.toNat = r * 2 ^ 16 + g * 2 ^ 8 + b)) ∧
      (t.madj = true ↔ s.opa.toNat / 2 ^ 24 ≠ 0) ∧ t.hadj = false ∧ t.sadj = false ∧ t.ladj = false ∧
      (t.z = true ↔ t.res.toNat / 2 ^ 16 = 0 ∧ t.res.toNat / 2 ^ 8 % 256 = 0 ∧ t.res.toNat % 256 = 0)) ∧
    ∀ s t : State, exec .scale s = .next t →
      (s.brt = 255 → t.res.toNat = s.opa.toNat % 2 ^ 24) ∧
      (s.brt = 0 → t.res = 0) ∧ (s.brt = 1 → t.res = 0) ∧
      (s.opa = 0x010101 → s.brt = 128 → t.res = 0 ∧ t.z = true) ∧
      (s.opa = 0xFF0000 → s.brt = 128 → t.res = 0x7F0000)

/-- 43_scale.md R114: SCALECH's word, its result by R110 on the low byte of OPA, its flags, what it leaves alone, and its
corner cases and example. -/
def Obligations.ScalechResult : Prop :=
  encode .scalech = 0x00000007 ∧
    (∀ s : State, ∃ t, exec .scalech s = .next t ∧ ResultFrame s t ∧
      (s.brt.toNat < 255 → t.res.toNat = s.opa.toNat % 256 * s.brt.toNat / 256) ∧
      (s.brt.toNat = 255 → t.res.toNat = s.opa.toNat % 256) ∧
      (t.madj = true ↔ s.opa.toNat / 2 ^ 8 ≠ 0) ∧ t.hadj = false ∧ t.sadj = false ∧ t.ladj = false ∧
      (t.z = true ↔ t.res = 0)) ∧
    ∀ s t : State, exec .scalech s = .next t →
      (s.brt = 0 → t.res = 0) ∧ (s.brt = 1 → t.res = 0) ∧
      (s.opa = 256 → t.res = 0 ∧ t.madj = true) ∧ (s.opa = 200 → s.brt = 100 → t.res = 78)

/-- 40_command.md R73: the table of the ADJ bits, for every legal command other than NOP. -/
def Obligations.AdjBitsFollowTheTable : Prop :=
  ∀ (i : Instr) (s : State), i ≠ .nop → ∃ t, exec i s = .next t ∧
    (t.hadj = true ↔ i = .hsl ∧ (s.opa.toInt < 0 ∨ 359 < s.opa.toInt)) ∧
    (t.sadj = true ↔ i = .hsl ∧ (s.opb.toInt < 0 ∨ 99 < s.opb.toInt)) ∧
    (t.ladj = true ↔ i = .hsl ∧ (s.opc.toInt < 0 ∨ 99 < s.opc.toInt)) ∧
    (t.madj = true ↔
      (i = .pack ∧ (2 ^ 8 ≤ s.opa.toNat ∨ 2 ^ 8 ≤ s.opb.toNat ∨ 2 ^ 8 ≤ s.opc.toNat)) ∨
      ((i = .unpackr ∨ i = .unpackg ∨ i = .unpackb ∨ i = .scale) ∧ 2 ^ 24 ≤ s.opa.toNat) ∨
      (i = .scalech ∧ 2 ^ 8 ≤ s.opa.toNat))

/-- 40_command.md (what no command writes, and that every command has a result): every command completes from every
state, and leaves the operand registers, BRT, BCHG, ILL and the host's side alone. -/
def Obligations.CommandsWriteOnlyResultAndAdj : Prop :=
  ∀ (i : Instr) (s : State), ∃ t, exec i s = .next t ∧
    t.opa = s.opa ∧ t.opb = s.opb ∧ t.opc = s.opc ∧ t.brt = s.brt ∧ t.bchg = s.bchg ∧ t.ill = s.ill ∧
    t.base = s.base ∧ t.pending = s.pending ∧ t.returned = s.returned

/-- 40_command.md (F_op reads only OPA, OPB, OPC and BRT): two states that agree on these get the same RES and the same
ADJ bits from every command other than NOP, whatever else they hold. -/
def Obligations.CommandsReadOnlyOperandsAndBrightness : Prop :=
  ∀ (i : Instr) (s u t v : State), i ≠ .nop →
    s.opa = u.opa → s.opb = u.opb → s.opc = u.opc → s.brt = u.brt →
    exec i s = .next t → exec i u = .next v → t.res = v.res ∧ t.adj = v.adj

/-- 20_memory.md (side effects and idempotency): performing a command again at once changes nothing more. -/
def Obligations.RepeatedCommandChangesNothing : Prop :=
  ∀ (i : Instr) (s t : State), exec i s = .next t → exec i t = .next t

/-- 41_pack_unpack.md (round-trip laws), through the commands: unpacking what PACK left gives the three bytes
back, and packing what the three UNPACK commands left gives OPA[23:0] back. -/
def Obligations.PackAndUnpackRoundTrip : Prop :=
  (∀ s t u r g b : State, exec .pack s = .next t → u.opa.toNat = t.res.toNat →
    exec .unpackr u = .next r → exec .unpackg u = .next g → exec .unpackb u = .next b →
      r.res.toNat = s.opa.toNat % 256 ∧ g.res.toNat = s.opb.toNat % 256 ∧ b.res.toNat = s.opc.toNat % 256 ∧
        r.madj = false ∧ g.madj = false ∧ b.madj = false) ∧
    ∀ s r g b u t : State, exec .unpackr s = .next r → exec .unpackg s = .next g → exec .unpackb s = .next b →
      u.opa.toNat = r.res.toNat → u.opb.toNat = g.res.toNat → u.opc.toNat = b.res.toNat →
      exec .pack u = .next t → t.res.toNat = s.opa.toNat % 2 ^ 24 ∧ t.madj = false

/-! ## The HSL converter -/

/-- 42_hsl.md R90: the reduced hue is the Euclidean remainder by 360, it is the hue itself from 0 to 359, a hue counts only
through it, HADJ records a hue outside [0,359], and the example -120. -/
def Obligations.HueIsReducedModulo360 : Prop :=
  (∀ h : Int, 0 ≤ reduceHue h ∧ reduceHue h ≤ 359 ∧ (360 : Int) ∣ h - reduceHue h) ∧
    (∀ h : Int, 0 ≤ h → h ≤ 359 → reduceHue h = h) ∧ reduceHue (-120) = 240 ∧
    (∀ s u t v : State, exec .hsl s = .next t → exec .hsl u = .next v →
      (360 : Int) ∣ s.opa.toInt - u.opa.toInt → s.opb = u.opb → s.opc = u.opc → t.res = v.res) ∧
    ∀ s t : State, exec .hsl s = .next t → (t.hadj = true ↔ ¬(0 ≤ s.opa.toInt ∧ s.opa.toInt ≤ 359))

/-- 42_hsl.md R91: s' and l' are the signed operands clamped to [0,99], and HSL's result is that of the clamped
operands. -/
def Obligations.PercentagesAreClamped : Prop :=
  (∀ a : Int, (a < 0 → clampPercent a = 0) ∧ (99 < a → clampPercent a = 99) ∧
    (0 ≤ a → a ≤ 99 → clampPercent a = a)) ∧
    ∀ s u t v : State, exec .hsl s = .next t → exec .hsl u = .next v → s.opa = u.opa →
      u.opb.toInt = max 0 (min 99 s.opb.toInt) → u.opc.toInt = max 0 (min 99 s.opc.toInt) → t.res = v.res

/-- 42_hsl.md section 4 (range laws): on the clamped domain the dividend of m is not negative, m and x are in range, every
channel is in [0,255], and all channels are 0 exactly when l' = 0. It rests on log entry 7 through x. -/
def Obligations.HslRangeLaws : Prop :=
  ∀ h s l : Int, 0 ≤ h → h ≤ 359 → 0 ≤ s → s ≤ 99 → 0 ≤ l → l ≤ 99 →
    0 ≤ chroma l s ∧ chroma l s ≤ 253 ∧ 0 ≤ l * 512 / 100 - chroma l s ∧
    0 ≤ lightnessOffset l (chroma l s) ∧ lightnessOffset l (chroma l s) ≤ 253 ∧
    0 ≤ secondLargest (chroma l s) h ∧ secondLargest (chroma l s) h ≤ chroma l s ∧
    0 ≤ (hslChannels h s l).1 ∧ (hslChannels h s l).1 ≤ 255 ∧
    0 ≤ (hslChannels h s l).2.1 ∧ (hslChannels h s l).2.1 ≤ 255 ∧
    0 ≤ (hslChannels h s l).2.2 ∧ (hslChannels h s l).2.2 ≤ 255 ∧
    (hslChannels h s l = (0, 0, 0) ↔ l = 0)

/-- 42_hsl.md section 4 (widths): an implementation may compute each quantity in the unsigned width of the table with no
loss. The conversion in those widths is the conversion over the integers, for every integer hue, saturation and
lightness. It rests on log entry 7. -/
def Obligations.HslFitsTheStatedWidths : Prop :=
  ∀ h s l : Int, hsl h s l =
    hslNarrow (BitVec.ofInt 9 (reduceHue h)) (BitVec.ofInt 7 (clampPercent s))
      (BitVec.ofInt 7 (clampPercent l))

/-- 42_hsl.md section 3: HSL gives black, and Z = 1, exactly when the lightness clamps to 0. -/
def Obligations.HslBlackExactlyAtZeroLightness : Prop :=
  ∀ s t : State, exec .hsl s = .next t → (t.z = true ↔ s.opc.toInt ≤ 0)

/-- 42_hsl.md section 3 (corner cases): with no saturation the result is a grey, all three channels m, and at the highest
lightness it is 0xFDFDFD. -/
def Obligations.HslGreyWithoutSaturation : Prop :=
  ∀ s t : State, exec .hsl s = .next t → s.opb.toInt ≤ 0 →
    (∀ l' : Int, l' = max 0 (min 99 s.opc.toInt) →
      (t.res.toNat : Int) = l' * 512 / 100 / 2 * 0x010101) ∧
    (99 ≤ s.opc.toInt → t.res = 0xFDFDFD)

/-- 90_conflicts.md C1: at hue 0 and at hue 120, whole turns added, with full saturation and lightness 50, the bytes are
those of the formulas, 0xFE0101 and 0x01FE01. The spec notes that these two depend only on c, m and x = 0. -/
def Obligations.HslPrimaryHues : Prop :=
  ∀ s t : State, exec .hsl s = .next t → 99 ≤ s.opb.toInt → s.opc.toInt = 50 →
    (s.opa.toInt % 360 = 0 → t.res = 0xFE0101) ∧ (s.opa.toInt % 360 = 120 → t.res = 0x01FE01)

/-- 42_hsl.md section 2: in an even sector x rises as (c × h2) >> 8, in an odd one it falls as (c × (256 − h2)) >> 8, h2
is 0 to 251, and at a sector's first hue x is 0 or c. It rests on log entry 7. -/
def Obligations.SecondLargestInterpolates : Prop :=
  ∀ c h' : Int, 0 ≤ c → 0 ≤ h' → h' ≤ 359 →
    0 ≤ sectorFraction h' ∧ sectorFraction h' ≤ 251 ∧
    (h' / 60 % 2 = 0 → secondLargest c h' = c * sectorFraction h' / 256) ∧
    (h' / 60 % 2 = 1 → secondLargest c h' = c * (256 - sectorFraction h') / 256) ∧
    (h' % 60 = 0 → h' / 60 % 2 = 0 → secondLargest c h' = 0) ∧
    (h' % 60 = 0 → h' / 60 % 2 = 1 → secondLargest c h' = c)

/-! ## The scale unit -/

/-- 43_scale.md section 4: scaling never brightens, is non-decreasing in the channel and in the brightness, is the identity
at 255 and 0 at 0, is not (ch × 255) >> 8 at 255, and is not idempotent. -/
def Obligations.ScaleLaws : Prop :=
  (∀ ch br : Byte, (scale8 ch br).toNat ≤ ch.toNat ∧ (br.toNat < 255 → (scale8 ch br).toNat ≤ 253)) ∧
    (∀ ch ch' br br' : Byte, ch.toNat ≤ ch'.toNat → br.toNat ≤ br'.toNat →
      (scale8 ch br).toNat ≤ (scale8 ch' br').toNat) ∧
    (∀ ch : Byte, scale8 ch 255 = ch ∧ scale8 ch 0 = 0) ∧
    scale8 255 254 = 253 ∧ scale8 255 255 = 255 ∧
    scale8 (scale8 255 128) 128 = 63 ∧ scale8 255 128 = 127

/-- 43_scale.md R113: a brightness write of another value sets BCHG and the low byte, a write of the value held changes
nothing at all, and BCHG stays 1 until the host clears it (a reset clears it too). -/
def Obligations.BrightnessWriteSetsBchgOnChange : Prop :=
  (∀ (s : State) (v : Word) (rest : List Event), s.pending = .access (.write (s.base + 0x10) 4 v) :: rest →
    (v.toNat % 256 ≠ s.brt.toNat → ∃ b : Byte, b.toNat = v.toNat % 256 ∧
      step s = .next { s with pending := rest, brt := b, bchg := true }) ∧
    (v.toNat % 256 = s.brt.toNat → step s = .next { s with pending := rest })) ∧
    ∀ (s t : State) (e : Event) (rest : List Event), s.pending = e :: rest → step s = .next t → s.bchg = true →
      (t.bchg = false ↔ e.IsReset ∨ ∃ v, e.IsWrite s.base 0x18 v ∧ v.getLsbD 8 = true)

/-- 43_scale.md section 3 and 70_reset_and_hazards.md section 3: a brightness write leaves RES as it was, and the next
SCALE uses the new brightness. -/
def Obligations.ScaleUsesTheNewBrightness : Prop :=
  ∀ (s : State) (v : Word) (rest : List Event),
    s.pending = .access (.write (s.base + 0x10) 4 v) :: .access (.write s.base 4 0x00000006) :: rest →
    ∃ t u, step s = .next t ∧ t.res = s.res ∧ step t = .next u ∧ u.opa = s.opa ∧
      ∀ br : Byte, br.toNat = v.toNat % 256 →
        u.res = pack ((scale8 (redOf s.opa) br).setWidth 32) ((scale8 (greenOf s.opa) br).setWidth 32)
          ((scale8 (blueOf s.opa) br).setWidth 32)

/-! ## The register window -/

/-- 20_memory.md R43: what a legal read of each register returns, that it has no side effect, and that reading twice
returns the same value. -/
def Obligations.LegalReadsReturnTheRegister : Prop :=
  (∀ (s : State) (rest : List Event) (off : Nat), s.pending = .access (.read (s.base + off) 4) :: rest →
    (off = 0x00 → step s = .next { s with pending := rest, returned := 0 :: s.returned }) ∧
    (off = 0x04 → step s = .next { s with pending := rest, returned := s.opa :: s.returned }) ∧
    (off = 0x08 → step s = .next { s with pending := rest, returned := s.opb :: s.returned }) ∧
    (off = 0x0C → step s = .next { s with pending := rest, returned := s.opc :: s.returned }) ∧
    (off = 0x10 → ∃ v : Word, v.toNat = s.brt.toNat ∧
      step s = .next { s with pending := rest, returned := v :: s.returned }) ∧
    (off = 0x14 → ∃ v : Word, v.toNat = s.res.toNat ∧
      step s = .next { s with pending := rest, returned := v :: s.returned }) ∧
    (off = 0x18 → ∃ v : Word,
      v.toNat = s.z.toNat + 2 * s.hadj.toNat + 4 * s.sadj.toNat + 8 * s.ladj.toNat + 16 * s.madj.toNat +
        256 * s.bchg.toNat + 512 * s.ill.toNat ∧
      step s = .next { s with pending := rest, returned := v :: s.returned })) ∧
    ∀ (s : State) (rest : List Event) (off : Nat), off ∈ [0x00, 0x04, 0x08, 0x0C, 0x10, 0x14, 0x18] →
      s.pending = .access (.read (s.base + off) 4) :: .access (.read (s.base + off) 4) :: rest →
      ∃ v, run 2 s = .next { s with pending := rest, returned := v :: v :: s.returned }

/-- 20_memory.md R44: what a legal write to each register does. -/
def Obligations.LegalWritesDoTheirRow : Prop :=
  ∀ (s : State) (v : Word) (rest : List Event) (off : Nat),
    s.pending = .access (.write (s.base + off) 4 v) :: rest →
    (off = 0x00 → (∀ i, decodeWord v = .ok i → step s = exec i { s with pending := rest }) ∧
      (∀ e, decodeWord v = .error e → step s = .next { s with pending := rest, ill := true })) ∧
    (off = 0x04 → step s = .next { s with pending := rest, opa := v }) ∧
    (off = 0x08 → step s = .next { s with pending := rest, opb := v }) ∧
    (off = 0x0C → step s = .next { s with pending := rest, opc := v }) ∧
    (off = 0x10 → ∃ b : Byte, b.toNat = v.toNat % 256 ∧
      step s = .next { s with pending := rest, brt := b, bchg := s.bchg || b != s.brt }) ∧
    (off = 0x14 → step s = .next { s with pending := rest }) ∧
    (off = 0x18 → step s = .next { s with
      pending := rest, bchg := s.bchg && !v.getLsbD 8, ill := s.ill && !v.getLsbD 9 })

/-- 10_state.md section 3 and 40_command.md: an operand register keeps the value written to it across a write of ANY word
to CMD, and a read then returns it. -/
def Obligations.OperandsReadBackAcrossACommand : Prop :=
  ∀ (s : State) (v w : Word) (rest : List Event) (off : Nat), off ∈ [0x04, 0x08, 0x0C] →
    s.pending = .access (.write (s.base + off) 4 v) :: .access (.write s.base 4 w) ::
      .access (.read (s.base + off) 4) :: rest →
    ∃ t, run 3 s = .next t ∧ t.returned = v :: s.returned ∧ t.pending = rest

/-- 10_state.md R25: every read of STATUS returns Z = 1 if RES is 0 at the time of the read, else Z = 0; right after reset
too. -/
def Obligations.ZIsLive : Prop :=
  (∀ (s : State) (rest : List Event), s.pending = .access (.read (s.base + 0x18) 4) :: rest →
    ∃ t v, step s = .next t ∧ t.returned = v :: s.returned ∧ (v.getLsbD 0 = true ↔ s.res = 0)) ∧
    State.reset.statusWord.getLsbD 0 = true

/-- 10_state.md section 3 (STATUS): the place of each field, and that every reserved bit reads 0. -/
def Obligations.StatusHasTheStatedLayout : Prop :=
  ∀ s : State, s.statusWord.getLsbD 0 = s.z ∧ s.statusWord.getLsbD 1 = s.hadj ∧
    s.statusWord.getLsbD 2 = s.sadj ∧ s.statusWord.getLsbD 3 = s.ladj ∧ s.statusWord.getLsbD 4 = s.madj ∧
    s.statusWord.getLsbD 8 = s.bchg ∧ s.statusWord.getLsbD 9 = s.ill ∧
    ∀ k, (5 ≤ k ∧ k ≤ 7) ∨ 10 ≤ k → s.statusWord.getLsbD k = false

/-- 20_memory.md R45: an access inside the window, all its bytes, whose width is not 4 bytes or whose address is no multiple
of 4. A write changes no register and sets ILL; a read returns 0 and sets ILL. The base address is aligned
(`State.Inv`). Accesses that reach past the window's end are `WindowEndStraddlingAccessOnlySetsIll`'s. -/
def Obligations.MisalignedOrOddWidthAccessOnlySetsIll : Prop :=
  ∀ (s : State) (addr width : Nat) (rest : List Event), s.base % 4 = 0 →
    s.base ≤ addr → addr < s.base + 0x20 → addr + width ≤ s.base + 0x20 → (width ≠ 4 ∨ addr % 4 ≠ 0) →
    (∀ v : Word, s.pending = .access (.write addr width v) :: rest →
      step s = .next { s with pending := rest, ill := true }) ∧
    (s.pending = .access (.read addr width) :: rest →
      step s = .next { s with pending := rest, ill := true, returned := 0x00000000 :: s.returned })

/-- The model's choice (log entry 4), which 20_memory.md section 3 does not sort: an access whose first byte is in the
window and which reaches past the window's end, of whatever width, is one of the unit's illegal accesses. A write
changes no register and sets ILL; a read returns 0 and sets ILL. The base address is aligned (`State.Inv`). -/
def Obligations.WindowEndStraddlingAccessOnlySetsIll : Prop :=
  ∀ (s : State) (addr width : Nat) (rest : List Event), s.base % 4 = 0 →
    s.base ≤ addr → addr < s.base + 0x20 → s.base + 0x20 < addr + width →
    (∀ v : Word, s.pending = .access (.write addr width v) :: rest →
      step s = .next { s with pending := rest, ill := true }) ∧
    (s.pending = .access (.read addr width) :: rest →
      step s = .next { s with pending := rest, ill := true, returned := 0x00000000 :: s.returned })

/-- 20_memory.md R46: the reserved word. A read returns 0, a write changes no register, and both set ILL. -/
def Obligations.ReservedWordAccessOnlySetsIll : Prop :=
  ∀ (s : State) (rest : List Event),
    (∀ v : Word, s.pending = .access (.write (s.base + 0x1C) 4 v) :: rest →
      step s = .next { s with pending := rest, ill := true }) ∧
    (s.pending = .access (.read (s.base + 0x1C) 4) :: rest →
      step s = .next { s with pending := rest, ill := true, returned := 0x00000000 :: s.returned })

/-- 10_state.md R27: writing STATUS clears BCHG by bit 8 and ILL by bit 9 and changes nothing else, nothing but that write
(or a reset) clears either bit, and both reset to 0. -/
def Obligations.StickyBitsClearByWritingOne : Prop :=
  State.reset.bchg = false ∧ State.reset.ill = false ∧
  (∀ (s : State) (v : Word) (rest : List Event), s.pending = .access (.write (s.base + 0x18) 4 v) :: rest →
    ∃ t, step s = .next t ∧ t = { s with pending := rest, bchg := t.bchg, ill := t.ill } ∧
      (v.getLsbD 8 = true → t.bchg = false) ∧ (v.getLsbD 8 = false → t.bchg = s.bchg) ∧
      (v.getLsbD 9 = true → t.ill = false) ∧ (v.getLsbD 9 = false → t.ill = s.ill)) ∧
    ∀ (s t : State) (e : Event) (rest : List Event), s.pending = e :: rest → step s = .next t →
      (s.bchg = true → t.bchg = false → e.IsReset ∨ ∃ v, e.IsWrite s.base 0x18 v ∧ v.getLsbD 8 = true) ∧
      (s.ill = true → t.ill = false → e.IsReset ∨ ∃ v, e.IsWrite s.base 0x18 v ∧ v.getLsbD 9 = true)

/-- 20_memory.md (side effects and idempotency): writing the same value twice to any register but CMD leaves the state that
writing it once leaves. -/
def Obligations.RegisterWritesAreIdempotent : Prop :=
  ∀ (s : State) (e : Event) (v : Word) (rest : List Event) (off : Nat),
    off ∈ [0x04, 0x08, 0x0C, 0x10, 0x14, 0x18] → e = .access (.write (s.base + off) 4 v) →
    ∃ t, step { s with pending := e :: rest } = .next t ∧ run 2 { s with pending := e :: e :: rest } = .next t

/-- 20_memory.md section 4: a read of RES right after the CMD write that runs a command returns the result of that
command. -/
def Obligations.ReadAfterCommandSeesItsResult : Prop :=
  ∀ (s t : State) (i : Instr) (rest : List Event),
    s.pending = .access (.write s.base 4 (encode i)) :: .access (.read (s.base + 0x14) 4) :: rest →
    exec i { s with pending := rest } = .next t →
    ∃ v : Word, v.toNat = t.res.toNat ∧ run 2 s = .next { t with returned := v :: s.returned }

/-! ## Whole-machine rules -/

/-- 10_state.md section 3 (BRT): only a write to offset 0x10 changes BRT, to the low byte written and with BCHG set; a
reset also may. -/
def Obligations.OnlyBrightnessWritesChangeBrt : Prop :=
  ∀ s t : State, step s = .next t → t.brt ≠ s.brt →
    ∃ e rest, s.pending = e :: rest ∧
      ((∃ v, e.IsWrite s.base 0x10 v ∧ t.brt.toNat = v.toNat % 256 ∧ t.bchg = true) ∨
        (e.IsReset ∧ t.brt.toNat = 255))

/-- 10_state.md section 3 (RES, the ADJ bits) and 40_command.md: only a legal command word other than NOP's, written to CMD,
changes RES or an ADJ bit, and then all of them are that command's; a reset also may. -/
def Obligations.OnlyCommandsChangeResultAndAdj : Prop :=
  ∀ s t : State, step s = .next t → (t.res ≠ s.res ∨ t.adj ≠ s.adj) →
    ∃ e rest, s.pending = e :: rest ∧
      ((∃ i, i ≠ .nop ∧ e.IsWrite s.base 0x00 (encode i) ∧ exec i { s with pending := rest } = .next t) ∨
        (e.IsReset ∧ t.res = 0 ∧ t.adj = ⟨false, false, false, false⟩))

/-- 10_state.md section 3 (operand registers): only a write to its own offset changes an operand register; a reset also
may. -/
def Obligations.OnlyOperandWritesChangeOperands : Prop :=
  ∀ s t : State, step s = .next t →
    (t.opa ≠ s.opa → ∃ e rest, s.pending = e :: rest ∧ (e.IsWrite s.base 0x04 t.opa ∨ (e.IsReset ∧ t.opa = 0))) ∧
    (t.opb ≠ s.opb → ∃ e rest, s.pending = e :: rest ∧ (e.IsWrite s.base 0x08 t.opb ∨ (e.IsReset ∧ t.opb = 0))) ∧
    (t.opc ≠ s.opc → ∃ e rest, s.pending = e :: rest ∧ (e.IsWrite s.base 0x0C t.opc ∨ (e.IsReset ∧ t.opc = 0)))

/-- 60_exceptions.md section 1: ILL goes from 0 to 1 exactly on the rows of the table that set it: an illegal command word
and an illegal access. That an access is the unit's when its first byte is in the window, and so that one reaching past
the window's end raises ILL, is the model's choice (log entry 4). The base address is aligned (`State.Inv`). -/
def Obligations.IllRisesExactlyOnIllegalEvents : Prop :=
  ∀ (s t : State) (e : Event) (rest : List Event), s.base % 4 = 0 → s.pending = e :: rest →
    step s = .next t → s.ill = false → (t.ill = true ↔ e.IsIllegal s.base)

/-- 20_memory.md sections 3 and 4: one step takes exactly one event off the list, in the host's order, and hands the host
one value if the event is a read, none if it is not. That no step changes the base address is the model's choice (log
entry 1), and that a reset leaves it, the events to come and the values read as they are is log entry 8's. -/
def Obligations.StepTakesOneEvent : Prop :=
  ∀ (s t : State) (e : Event) (rest : List Event), s.pending = e :: rest → step s = .next t →
    t.base = s.base ∧ t.pending = rest ∧
      ((∃ addr width, e = .access (.read addr width)) → ∃ v, t.returned = v :: s.returned) ∧
      ((∀ addr width, e ≠ .access (.read addr width)) → t.returned = s.returned)

/-- 70_reset_and_hazards.md section 4 and 60_exceptions.md section 1: no step faults, and a step on an access inside the
window or on a reset always completes. The two refusals by name, of an access outside the window and of a second bus
master's, are the model's, deduced from 20_memory.md sections 1 and 4 (log entry 9); that an access is inside or outside
by its first byte is the model's choice (log entry 4). -/
def Obligations.AdmittedEventsCompleteAndOthersAreRefused : Prop :=
  (∀ (s : State) (f : Fault), step s ≠ .fault f) ∧
    ∀ (s : State) (e : Event) (rest : List Event), s.pending = e :: rest →
      (e.admitted s.base = true → ∃ t, step s = .next t) ∧
      (∀ addr width v, (e = .access (.read addr width) ∨ e = .access (.write addr width v)) →
        (addr < s.base ∨ s.base + 0x20 ≤ addr) → step s = .refused .outsideWindow) ∧
      (∀ a, e = .otherMaster a → step s = .refused .secondMaster)

/-- 70_reset_and_hazards.md section 4: no access stalls or hangs. A run whose events to come are all admitted takes one step
for each of them and completes, from every state. Steps beyond the last event are the idle step, which is the model's
choice (log entry 5), and `admitted` sorts an access by its first byte, which is the model's choice too (log entry 4). -/
def Obligations.SafeRunsComplete : Prop :=
  ∀ (n : Nat) (s : State), s.Safe → ∃ t, run n s = .next t ∧ t.pending = s.pending.drop n ∧ t.Safe

/-- The reset state meets the invariant of the machine. It rests on the reset value of the base address (log entry 1) only
through its being a multiple of 4. -/
def Obligations.ResetMeetsTheInvariant : Prop := State.reset.Inv

/-- 10_state.md section 3, 40_command.md and 00_scope.md section 3: every step keeps the invariant. The base address stays
aligned, MADJ never stands beside another ADJ bit, and RES and the ADJ bits always come from one and the same command. -/
def Obligations.StepKeepsTheInvariant : Prop :=
  ∀ s t : State, s.Inv → step s = .next t → t.Inv

/-- 00_scope.md section 3: nothing depends on CCU_BASE. A unit and its host's events moved d bytes up do the same, moved d
bytes up. The spec's own bases are the multiples of 4; that the machine is defined at every other base as well, and that
a move by any d never wraps around the end of an address space, is the model's choice (log entry 10). -/
def Obligations.BaseAddressIsImmaterial : Prop :=
  ∀ (s : State) (d n : Nat), run n (s.shift d) = shiftOutcome d (run n s)

/-- 10_state.md section 5: nothing the host can observe depends on anything but the registers. What it has read before and
what it will ask later change neither a step's registers nor the value a read returns. -/
def Obligations.OnlyTheRegistersMatter : Prop :=
  ∀ (s t : State) (e : Event) (rest rest' : List Event) (ws : List Word), s.pending = e :: rest →
    step s = .next t → ∃ vs, t.returned = vs ++ s.returned ∧
      step { s with pending := e :: rest', returned := ws } =
        .next { t with pending := rest', returned := vs ++ ws }

/-! ## Host assembly and the idle unit -/

/-- 30_encoding.md section 5 (pseudo-instructions): the lines of each pseudo-instruction write its operands and then run its
command on them. -/
def Obligations.PseudoInstructionsRunTheirCommand : Prop :=
  ∀ (s : State) (p : Pseudo) (rest : List Event), s.pending = p.events s.base ++ rest →
    (∀ r g b, p = .pack r g b → run 4 s = exec .pack { s with
      pending := rest, opa := BitVec.ofInt 32 r, opb := BitVec.ofInt 32 g, opc := BitVec.ofInt 32 b }) ∧
    (∀ h sat l, p = .hsl h sat l → run 4 s = exec .hsl { s with
      pending := rest, opa := BitVec.ofInt 32 h, opb := BitVec.ofInt 32 sat, opc := BitVec.ofInt 32 l }) ∧
    (∀ c, p = .unpackr c → run 2 s = exec .unpackr { s with pending := rest, opa := BitVec.ofInt 32 c }) ∧
    (∀ c, p = .unpackg c → run 2 s = exec .unpackg { s with pending := rest, opa := BitVec.ofInt 32 c }) ∧
    (∀ c, p = .unpackb c → run 2 s = exec .unpackb { s with pending := rest, opa := BitVec.ofInt 32 c }) ∧
    (∀ c, p = .scale c → run 2 s = exec .scale { s with pending := rest, opa := BitVec.ofInt 32 c }) ∧
    (∀ v, p = .scalech v → run 2 s = exec .scalech { s with pending := rest, opa := BitVec.ofInt 32 v }) ∧
    (∀ v, p = .setbrt v → ∃ t, run 1 s = .next t ∧ t.brt = BitVec.ofInt 8 v ∧ t.pending = rest) ∧
    (p = .clrst → run 1 s = .next { s with pending := rest, bchg := false, ill := false }) ∧
    (p = .nop → run 1 s = .next { s with pending := rest })

/-- 30_encoding.md section 5: a well-formed line of host assembly is an access the unit answers, wherever it sits. For the
raw offsets 0x1D to 0x1F, whose 4 bytes reach past the window's end, that is the model's choice (log entry 4). -/
def Obligations.WellFormedAsmLinesAreAnswered : Prop :=
  ∀ (s : State) (line : AsmLine) (rest : List Event), line.wellFormed = true →
    s.pending = line.event s.base :: rest → ∃ t, step s = .next t

/-- 60_exceptions.md section 6: with no event to come the unit holds its registers. That a step then answers the same state
is the model's choice (log entry 5). -/
def Obligations.IdleUnitHoldsItsState : Prop :=
  ∀ s : State, s.pending = [] → step s = .next s
end

