-- ==== Sys2Proof/Laws/Arith.lean ====
section
/-! SUPPORT. The bit fields, flag tests and functions of the commands as plain arithmetic. -/

namespace Sys2Proof.Machine

theorem lowByte_toNat (v : Word) : (lowByte v).toNat = v.toNat % 2 ^ 8 := by
  simp [lowByte]

theorem redOf_toNat (v : Word) : (redOf v).toNat = v.toNat / 2 ^ 16 % 2 ^ 8 := by
  simp [redOf, Nat.shiftRight_eq_div_pow]

theorem greenOf_toNat (v : Word) : (greenOf v).toNat = v.toNat / 2 ^ 8 % 2 ^ 8 := by
  simp [greenOf, Nat.shiftRight_eq_div_pow]

theorem blueOf_toNat (v : Word) : (blueOf v).toNat = v.toNat % 2 ^ 8 := by
  simp [blueOf]

theorem zextChannel_toNat (ch : Byte) : (zextChannel ch).toNat = ch.toNat := by
  have := ch.isLt
  simp only [zextChannel, BitVec.toNat_setWidth]
  omega

/-- Whether the bits from `k` up of a word are all 0 is whether the word is below `2 ^ k`. -/
theorem highBits_ne_zero (v : Word) (k n : Nat) (h : k + n = 32) :
    (v.extractLsb' k n != 0) = decide (2 ^ k ≤ v.toNat) := by
  have hv : v.toNat < 2 ^ k * 2 ^ n := by rw [← Nat.pow_add, h]; exact v.isLt
  have hq : v.toNat / 2 ^ k < 2 ^ n := Nat.div_lt_of_lt_mul hv
  rw [Bool.eq_iff_iff]
  simp only [bne_iff_ne, ne_eq, decide_eq_true_eq, ← BitVec.toNat_inj, BitVec.extractLsb'_toNat,
    Nat.shiftRight_eq_div_pow, Nat.mod_eq_of_lt hq, BitVec.ofNat_eq_ofNat, BitVec.toNat_ofNat,
    Nat.zero_mod]
  rw [Nat.div_eq_zero_iff]
  have : 0 < 2 ^ k := Nat.two_pow_pos k
  omega

theorem aboveChannel_eq (v : Word) : aboveChannel v = decide (2 ^ 8 ≤ v.toNat) :=
  highBits_ne_zero v 8 24 rfl

theorem aboveColor_eq (v : Word) : aboveColor v = decide (2 ^ 24 ≤ v.toNat) :=
  highBits_ne_zero v 24 8 rfl

theorem outside_iff (hi a : Int) : outside hi a = true ↔ a < 0 ∨ hi < a := by
  rw [outside, Bool.or_eq_true, decide_eq_true_iff, decide_eq_true_iff]

/-- Three bytes side by side, as a number. -/
theorem append3_toNat (r g b : Byte) :
    (r ++ g ++ b : Color).toNat = r.toNat * 2 ^ 16 + g.toNat * 2 ^ 8 + b.toNat := by
  have hr := r.isLt
  have hg := g.isLt
  have hb := b.isLt
  rw [BitVec.toNat_append, BitVec.toNat_append,
    ← Nat.shiftLeft_add_eq_or_of_lt hg, ← Nat.shiftLeft_add_eq_or_of_lt hb]
  simp only [Nat.shiftLeft_eq]
  omega

theorem pack_toNat (r g b : Word) :
    (pack r g b).toNat =
      r.toNat % 2 ^ 8 * 2 ^ 16 + g.toNat % 2 ^ 8 * 2 ^ 8 + b.toNat % 2 ^ 8 := by
  rw [pack, append3_toNat, lowByte_toNat, lowByte_toNat, lowByte_toNat]

theorem lowByte_setWidth (ch : Byte) : lowByte (ch.setWidth 32) = ch := by
  apply BitVec.eq_of_toNat_eq
  rw [lowByte_toNat]
  simp only [BitVec.toNat_setWidth]
  omega

theorem scale8_toNat (ch br : Byte) :
    (scale8 ch br).toNat = if br.toNat < 255 then ch.toNat * br.toNat / 2 ^ 8 else ch.toNat := by
  unfold scale8
  split
  · next h =>
    have h1 : ch.toNat * br.toNat < 256 * 256 :=
      Nat.mul_lt_mul_of_lt_of_lt ch.isLt br.isLt
    rw [BitVec.toNat_ofNat, Nat.shiftRight_eq_div_pow]
    omega
  · rfl

theorem scaleColor_toNat (c : Word) (br : Byte) :
    (scaleColor c br).toNat = (scale8 (redOf c) br).toNat * 2 ^ 16 +
      (scale8 (greenOf c) br).toNat * 2 ^ 8 + (scale8 (blueOf c) br).toNat := by
  rw [scaleColor, pack, lowByte_setWidth, lowByte_setWidth, lowByte_setWidth, append3_toNat]

end Sys2Proof.Machine
end

