-- ==== Sys2Proof/Laws/State.lean ====
section
/-! SUPPORT. One lemma per field per update of the state, so that no proof unfolds a record update. -/

namespace Sys2Proof.Machine

@[simp] theorem State.setOpa_opa (s : State) (v : Word) :
    (s.setOpa v).opa = v := rfl
@[simp] theorem State.setOpa_opb (s : State) (v : Word) :
    (s.setOpa v).opb = s.opb := rfl
@[simp] theorem State.setOpa_opc (s : State) (v : Word) :
    (s.setOpa v).opc = s.opc := rfl
@[simp] theorem State.setOpa_brt (s : State) (v : Word) :
    (s.setOpa v).brt = s.brt := rfl
@[simp] theorem State.setOpa_res (s : State) (v : Word) :
    (s.setOpa v).res = s.res := rfl
@[simp] theorem State.setOpa_hadj (s : State) (v : Word) :
    (s.setOpa v).hadj = s.hadj := rfl
@[simp] theorem State.setOpa_sadj (s : State) (v : Word) :
    (s.setOpa v).sadj = s.sadj := rfl
@[simp] theorem State.setOpa_ladj (s : State) (v : Word) :
    (s.setOpa v).ladj = s.ladj := rfl
@[simp] theorem State.setOpa_madj (s : State) (v : Word) :
    (s.setOpa v).madj = s.madj := rfl
@[simp] theorem State.setOpa_bchg (s : State) (v : Word) :
    (s.setOpa v).bchg = s.bchg := rfl
@[simp] theorem State.setOpa_ill (s : State) (v : Word) :
    (s.setOpa v).ill = s.ill := rfl
@[simp] theorem State.setOpa_base (s : State) (v : Word) :
    (s.setOpa v).base = s.base := rfl
@[simp] theorem State.setOpa_pending (s : State) (v : Word) :
    (s.setOpa v).pending = s.pending := rfl
@[simp] theorem State.setOpa_returned (s : State) (v : Word) :
    (s.setOpa v).returned = s.returned := rfl

@[simp] theorem State.setOpb_opa (s : State) (v : Word) :
    (s.setOpb v).opa = s.opa := rfl
@[simp] theorem State.setOpb_opb (s : State) (v : Word) :
    (s.setOpb v).opb = v := rfl
@[simp] theorem State.setOpb_opc (s : State) (v : Word) :
    (s.setOpb v).opc = s.opc := rfl
@[simp] theorem State.setOpb_brt (s : State) (v : Word) :
    (s.setOpb v).brt = s.brt := rfl
@[simp] theorem State.setOpb_res (s : State) (v : Word) :
    (s.setOpb v).res = s.res := rfl
@[simp] theorem State.setOpb_hadj (s : State) (v : Word) :
    (s.setOpb v).hadj = s.hadj := rfl
@[simp] theorem State.setOpb_sadj (s : State) (v : Word) :
    (s.setOpb v).sadj = s.sadj := rfl
@[simp] theorem State.setOpb_ladj (s : State) (v : Word) :
    (s.setOpb v).ladj = s.ladj := rfl
@[simp] theorem State.setOpb_madj (s : State) (v : Word) :
    (s.setOpb v).madj = s.madj := rfl
@[simp] theorem State.setOpb_bchg (s : State) (v : Word) :
    (s.setOpb v).bchg = s.bchg := rfl
@[simp] theorem State.setOpb_ill (s : State) (v : Word) :
    (s.setOpb v).ill = s.ill := rfl
@[simp] theorem State.setOpb_base (s : State) (v : Word) :
    (s.setOpb v).base = s.base := rfl
@[simp] theorem State.setOpb_pending (s : State) (v : Word) :
    (s.setOpb v).pending = s.pending := rfl
@[simp] theorem State.setOpb_returned (s : State) (v : Word) :
    (s.setOpb v).returned = s.returned := rfl

@[simp] theorem State.setOpc_opa (s : State) (v : Word) :
    (s.setOpc v).opa = s.opa := rfl
@[simp] theorem State.setOpc_opb (s : State) (v : Word) :
    (s.setOpc v).opb = s.opb := rfl
@[simp] theorem State.setOpc_opc (s : State) (v : Word) :
    (s.setOpc v).opc = v := rfl
@[simp] theorem State.setOpc_brt (s : State) (v : Word) :
    (s.setOpc v).brt = s.brt := rfl
@[simp] theorem State.setOpc_res (s : State) (v : Word) :
    (s.setOpc v).res = s.res := rfl
@[simp] theorem State.setOpc_hadj (s : State) (v : Word) :
    (s.setOpc v).hadj = s.hadj := rfl
@[simp] theorem State.setOpc_sadj (s : State) (v : Word) :
    (s.setOpc v).sadj = s.sadj := rfl
@[simp] theorem State.setOpc_ladj (s : State) (v : Word) :
    (s.setOpc v).ladj = s.ladj := rfl
@[simp] theorem State.setOpc_madj (s : State) (v : Word) :
    (s.setOpc v).madj = s.madj := rfl
@[simp] theorem State.setOpc_bchg (s : State) (v : Word) :
    (s.setOpc v).bchg = s.bchg := rfl
@[simp] theorem State.setOpc_ill (s : State) (v : Word) :
    (s.setOpc v).ill = s.ill := rfl
@[simp] theorem State.setOpc_base (s : State) (v : Word) :
    (s.setOpc v).base = s.base := rfl
@[simp] theorem State.setOpc_pending (s : State) (v : Word) :
    (s.setOpc v).pending = s.pending := rfl
@[simp] theorem State.setOpc_returned (s : State) (v : Word) :
    (s.setOpc v).returned = s.returned := rfl

@[simp] theorem State.writeBrt_opa (s : State) (v : Word) :
    (s.writeBrt v).opa = s.opa := rfl
@[simp] theorem State.writeBrt_opb (s : State) (v : Word) :
    (s.writeBrt v).opb = s.opb := rfl
@[simp] theorem State.writeBrt_opc (s : State) (v : Word) :
    (s.writeBrt v).opc = s.opc := rfl
@[simp] theorem State.writeBrt_brt (s : State) (v : Word) :
    (s.writeBrt v).brt = lowByte v := rfl
@[simp] theorem State.writeBrt_res (s : State) (v : Word) :
    (s.writeBrt v).res = s.res := rfl
@[simp] theorem State.writeBrt_hadj (s : State) (v : Word) :
    (s.writeBrt v).hadj = s.hadj := rfl
@[simp] theorem State.writeBrt_sadj (s : State) (v : Word) :
    (s.writeBrt v).sadj = s.sadj := rfl
@[simp] theorem State.writeBrt_ladj (s : State) (v : Word) :
    (s.writeBrt v).ladj = s.ladj := rfl
@[simp] theorem State.writeBrt_madj (s : State) (v : Word) :
    (s.writeBrt v).madj = s.madj := rfl
@[simp] theorem State.writeBrt_bchg (s : State) (v : Word) :
    (s.writeBrt v).bchg = (s.bchg || lowByte v != s.brt) := rfl
@[simp] theorem State.writeBrt_ill (s : State) (v : Word) :
    (s.writeBrt v).ill = s.ill := rfl
@[simp] theorem State.writeBrt_base (s : State) (v : Word) :
    (s.writeBrt v).base = s.base := rfl
@[simp] theorem State.writeBrt_pending (s : State) (v : Word) :
    (s.writeBrt v).pending = s.pending := rfl
@[simp] theorem State.writeBrt_returned (s : State) (v : Word) :
    (s.writeBrt v).returned = s.returned := rfl

@[simp] theorem State.clearSticky_opa (s : State) (v : Word) :
    (s.clearSticky v).opa = s.opa := rfl
@[simp] theorem State.clearSticky_opb (s : State) (v : Word) :
    (s.clearSticky v).opb = s.opb := rfl
@[simp] theorem State.clearSticky_opc (s : State) (v : Word) :
    (s.clearSticky v).opc = s.opc := rfl
@[simp] theorem State.clearSticky_brt (s : State) (v : Word) :
    (s.clearSticky v).brt = s.brt := rfl
@[simp] theorem State.clearSticky_res (s : State) (v : Word) :
    (s.clearSticky v).res = s.res := rfl
@[simp] theorem State.clearSticky_hadj (s : State) (v : Word) :
    (s.clearSticky v).hadj = s.hadj := rfl
@[simp] theorem State.clearSticky_sadj (s : State) (v : Word) :
    (s.clearSticky v).sadj = s.sadj := rfl
@[simp] theorem State.clearSticky_ladj (s : State) (v : Word) :
    (s.clearSticky v).ladj = s.ladj := rfl
@[simp] theorem State.clearSticky_madj (s : State) (v : Word) :
    (s.clearSticky v).madj = s.madj := rfl
@[simp] theorem State.clearSticky_bchg (s : State) (v : Word) :
    (s.clearSticky v).bchg = (s.bchg && !v.getLsbD 8) := rfl
@[simp] theorem State.clearSticky_ill (s : State) (v : Word) :
    (s.clearSticky v).ill = (s.ill && !v.getLsbD 9) := rfl
@[simp] theorem State.clearSticky_base (s : State) (v : Word) :
    (s.clearSticky v).base = s.base := rfl
@[simp] theorem State.clearSticky_pending (s : State) (v : Word) :
    (s.clearSticky v).pending = s.pending := rfl
@[simp] theorem State.clearSticky_returned (s : State) (v : Word) :
    (s.clearSticky v).returned = s.returned := rfl

@[simp] theorem State.setIll_opa (s : State) :
    (s.setIll).opa = s.opa := rfl
@[simp] theorem State.setIll_opb (s : State) :
    (s.setIll).opb = s.opb := rfl
@[simp] theorem State.setIll_opc (s : State) :
    (s.setIll).opc = s.opc := rfl
@[simp] theorem State.setIll_brt (s : State) :
    (s.setIll).brt = s.brt := rfl
@[simp] theorem State.setIll_res (s : State) :
    (s.setIll).res = s.res := rfl
@[simp] theorem State.setIll_hadj (s : State) :
    (s.setIll).hadj = s.hadj := rfl
@[simp] theorem State.setIll_sadj (s : State) :
    (s.setIll).sadj = s.sadj := rfl
@[simp] theorem State.setIll_ladj (s : State) :
    (s.setIll).ladj = s.ladj := rfl
@[simp] theorem State.setIll_madj (s : State) :
    (s.setIll).madj = s.madj := rfl
@[simp] theorem State.setIll_bchg (s : State) :
    (s.setIll).bchg = s.bchg := rfl
@[simp] theorem State.setIll_ill (s : State) :
    (s.setIll).ill = true := rfl
@[simp] theorem State.setIll_base (s : State) :
    (s.setIll).base = s.base := rfl
@[simp] theorem State.setIll_pending (s : State) :
    (s.setIll).pending = s.pending := rfl
@[simp] theorem State.setIll_returned (s : State) :
    (s.setIll).returned = s.returned := rfl

@[simp] theorem State.setResult_opa (s : State) (r : Color) (a : Adj) :
    (s.setResult r a).opa = s.opa := rfl
@[simp] theorem State.setResult_opb (s : State) (r : Color) (a : Adj) :
    (s.setResult r a).opb = s.opb := rfl
@[simp] theorem State.setResult_opc (s : State) (r : Color) (a : Adj) :
    (s.setResult r a).opc = s.opc := rfl
@[simp] theorem State.setResult_brt (s : State) (r : Color) (a : Adj) :
    (s.setResult r a).brt = s.brt := rfl
@[simp] theorem State.setResult_res (s : State) (r : Color) (a : Adj) :
    (s.setResult r a).res = r := rfl
@[simp] theorem State.setResult_hadj (s : State) (r : Color) (a : Adj) :
    (s.setResult r a).hadj = a.hadj := rfl
@[simp] theorem State.setResult_sadj (s : State) (r : Color) (a : Adj) :
    (s.setResult r a).sadj = a.sadj := rfl
@[simp] theorem State.setResult_ladj (s : State) (r : Color) (a : Adj) :
    (s.setResult r a).ladj = a.ladj := rfl
@[simp] theorem State.setResult_madj (s : State) (r : Color) (a : Adj) :
    (s.setResult r a).madj = a.madj := rfl
@[simp] theorem State.setResult_bchg (s : State) (r : Color) (a : Adj) :
    (s.setResult r a).bchg = s.bchg := rfl
@[simp] theorem State.setResult_ill (s : State) (r : Color) (a : Adj) :
    (s.setResult r a).ill = s.ill := rfl
@[simp] theorem State.setResult_base (s : State) (r : Color) (a : Adj) :
    (s.setResult r a).base = s.base := rfl
@[simp] theorem State.setResult_pending (s : State) (r : Color) (a : Adj) :
    (s.setResult r a).pending = s.pending := rfl
@[simp] theorem State.setResult_returned (s : State) (r : Color) (a : Adj) :
    (s.setResult r a).returned = s.returned := rfl

@[simp] theorem State.returnWord_opa (s : State) (v : Word) :
    (s.returnWord v).opa = s.opa := rfl
@[simp] theorem State.returnWord_opb (s : State) (v : Word) :
    (s.returnWord v).opb = s.opb := rfl
@[simp] theorem State.returnWord_opc (s : State) (v : Word) :
    (s.returnWord v).opc = s.opc := rfl
@[simp] theorem State.returnWord_brt (s : State) (v : Word) :
    (s.returnWord v).brt = s.brt := rfl
@[simp] theorem State.returnWord_res (s : State) (v : Word) :
    (s.returnWord v).res = s.res := rfl
@[simp] theorem State.returnWord_hadj (s : State) (v : Word) :
    (s.returnWord v).hadj = s.hadj := rfl
@[simp] theorem State.returnWord_sadj (s : State) (v : Word) :
    (s.returnWord v).sadj = s.sadj := rfl
@[simp] theorem State.returnWord_ladj (s : State) (v : Word) :
    (s.returnWord v).ladj = s.ladj := rfl
@[simp] theorem State.returnWord_madj (s : State) (v : Word) :
    (s.returnWord v).madj = s.madj := rfl
@[simp] theorem State.returnWord_bchg (s : State) (v : Word) :
    (s.returnWord v).bchg = s.bchg := rfl
@[simp] theorem State.returnWord_ill (s : State) (v : Word) :
    (s.returnWord v).ill = s.ill := rfl
@[simp] theorem State.returnWord_base (s : State) (v : Word) :
    (s.returnWord v).base = s.base := rfl
@[simp] theorem State.returnWord_pending (s : State) (v : Word) :
    (s.returnWord v).pending = s.pending := rfl
@[simp] theorem State.returnWord_returned (s : State) (v : Word) :
    (s.returnWord v).returned = v :: s.returned := rfl

@[simp] theorem State.setPending_opa (s : State) (es : List Event) :
    (s.setPending es).opa = s.opa := rfl
@[simp] theorem State.setPending_opb (s : State) (es : List Event) :
    (s.setPending es).opb = s.opb := rfl
@[simp] theorem State.setPending_opc (s : State) (es : List Event) :
    (s.setPending es).opc = s.opc := rfl
@[simp] theorem State.setPending_brt (s : State) (es : List Event) :
    (s.setPending es).brt = s.brt := rfl
@[simp] theorem State.setPending_res (s : State) (es : List Event) :
    (s.setPending es).res = s.res := rfl
@[simp] theorem State.setPending_hadj (s : State) (es : List Event) :
    (s.setPending es).hadj = s.hadj := rfl
@[simp] theorem State.setPending_sadj (s : State) (es : List Event) :
    (s.setPending es).sadj = s.sadj := rfl
@[simp] theorem State.setPending_ladj (s : State) (es : List Event) :
    (s.setPending es).ladj = s.ladj := rfl
@[simp] theorem State.setPending_madj (s : State) (es : List Event) :
    (s.setPending es).madj = s.madj := rfl
@[simp] theorem State.setPending_bchg (s : State) (es : List Event) :
    (s.setPending es).bchg = s.bchg := rfl
@[simp] theorem State.setPending_ill (s : State) (es : List Event) :
    (s.setPending es).ill = s.ill := rfl
@[simp] theorem State.setPending_base (s : State) (es : List Event) :
    (s.setPending es).base = s.base := rfl
@[simp] theorem State.setPending_pending (s : State) (es : List Event) :
    (s.setPending es).pending = es := rfl
@[simp] theorem State.setPending_returned (s : State) (es : List Event) :
    (s.setPending es).returned = s.returned := rfl

@[simp] theorem State.resetRegisters_opa (s : State) :
    (s.resetRegisters).opa = State.reset.opa := rfl
@[simp] theorem State.resetRegisters_opb (s : State) :
    (s.resetRegisters).opb = State.reset.opb := rfl
@[simp] theorem State.resetRegisters_opc (s : State) :
    (s.resetRegisters).opc = State.reset.opc := rfl
@[simp] theorem State.resetRegisters_brt (s : State) :
    (s.resetRegisters).brt = State.reset.brt := rfl
@[simp] theorem State.resetRegisters_res (s : State) :
    (s.resetRegisters).res = State.reset.res := rfl
@[simp] theorem State.resetRegisters_hadj (s : State) :
    (s.resetRegisters).hadj = State.reset.hadj := rfl
@[simp] theorem State.resetRegisters_sadj (s : State) :
    (s.resetRegisters).sadj = State.reset.sadj := rfl
@[simp] theorem State.resetRegisters_ladj (s : State) :
    (s.resetRegisters).ladj = State.reset.ladj := rfl
@[simp] theorem State.resetRegisters_madj (s : State) :
    (s.resetRegisters).madj = State.reset.madj := rfl
@[simp] theorem State.resetRegisters_bchg (s : State) :
    (s.resetRegisters).bchg = State.reset.bchg := rfl
@[simp] theorem State.resetRegisters_ill (s : State) :
    (s.resetRegisters).ill = State.reset.ill := rfl
@[simp] theorem State.resetRegisters_base (s : State) :
    (s.resetRegisters).base = s.base := rfl
@[simp] theorem State.resetRegisters_pending (s : State) :
    (s.resetRegisters).pending = s.pending := rfl
@[simp] theorem State.resetRegisters_returned (s : State) :
    (s.resetRegisters).returned = s.returned := rfl

end Sys2Proof.Machine
end

