-- ==== Sys2Proof/Laws/Ops.lean ====
section
/-! SUPPORT. The laws of the shared updates. -/

namespace Sys2Proof.Machine

@[simp] theorem State.setPending_self (s : State) : s.setPending s.pending = s := rfl

theorem State.setOpa_idem (s : State) (v : Word) : (s.setOpa v).setOpa v = s.setOpa v := rfl
theorem State.setOpb_idem (s : State) (v : Word) : (s.setOpb v).setOpb v = s.setOpb v := rfl
theorem State.setOpc_idem (s : State) (v : Word) : (s.setOpc v).setOpc v = s.setOpc v := rfl

/-- Writing the brightness that BRT holds changes nothing (43_scale.md R113). -/
theorem State.writeBrt_same (s : State) (v : Word) (h : lowByte v = s.brt) : s.writeBrt v = s := by
  cases s; simp_all [State.writeBrt]

theorem State.writeBrt_idem (s : State) (v : Word) : (s.writeBrt v).writeBrt v = s.writeBrt v :=
  State.writeBrt_same _ _ rfl

theorem State.clearSticky_idem (s : State) (v : Word) : (s.clearSticky v).clearSticky v = s.clearSticky v := by
  simp [State.clearSticky]

end Sys2Proof.Machine
end

