-- ==== Sys2Proof/Laws/Bus.lean ====
section
/-! SUPPORT. The register window and the step, said once: which register a legal access reaches, what each bus event does,
and every way a step can answer a next state. -/

namespace Sys2Proof.Machine

theorem regAt_offset (r : Reg) : regAt r.offset = some r := by cases r <;> rfl

theorem regAt_eq_some {off : Nat} {r : Reg} (h : regAt off = some r) : off = r.offset := by
  unfold regAt at h
  split at h <;> first | (injection h with h; subst h; rfl) | exact absurd h (by simp)

theorem Reg.offset_lt (r : Reg) : r.offset < Config.windowBytes := by cases r <;> decide

theorem Reg.offset_mod_four (r : Reg) : r.offset % 4 = 0 := by cases r <;> rfl

theorem State.inWindow_iff (s : State) (addr : Nat) :
    s.inWindow addr = true ↔ s.base ≤ addr ∧ addr < s.base + 0x20 := by
  rw [State.inWindow, Bool.and_eq_true, decide_eq_true_iff, decide_eq_true_iff, Config.windowBytes]

/-- An access of 4 bytes to a register's offset is legal and reaches that register, in any state. -/
theorem State.target_offset (s : State) (r : Reg) : s.target (s.base + r.offset) 4 = some r := by
  rw [State.target, if_pos (by rfl), Nat.add_sub_cancel_left, regAt_offset]

theorem State.inWindow_offset (s : State) (r : Reg) : s.inWindow (s.base + r.offset) = true := by
  have := r.offset_lt
  simp only [State.inWindow, Bool.and_eq_true, decide_eq_true_eq]
  omega

/-- The only accesses that reach a register are those of 20_memory.md R41. -/
theorem State.target_eq_some {s : State} {addr width : Nat} {r : Reg} (hw : s.inWindow addr = true)
    (h : s.target addr width = some r) : addr = s.base + r.offset ∧ width = 4 := by
  unfold State.target at h
  split at h
  · next hwidth =>
    have := regAt_eq_some h
    simp only [State.inWindow, Bool.and_eq_true, decide_eq_true_eq] at hw
    exact ⟨by omega, hwidth⟩
  · exact absurd h (by simp)

/-- Every 4-byte-aligned address of the window but the reserved word's is a register's. -/
theorem exists_reg_offset {off : Nat} (h : off < 0x1C) (h4 : off % 4 = 0) : ∃ r : Reg, off = r.offset := by
  have : off = 0x00 ∨ off = 0x04 ∨ off = 0x08 ∨ off = 0x0C ∨ off = 0x10 ∨ off = 0x14 ∨ off = 0x18 := by omega
  rcases this with rfl | rfl | rfl | rfl | rfl | rfl | rfl
  exacts [⟨.cmd, rfl⟩, ⟨.opa, rfl⟩, ⟨.opb, rfl⟩, ⟨.opc, rfl⟩, ⟨.brt, rfl⟩, ⟨.res, rfl⟩, ⟨.status, rfl⟩]

/-- At an aligned base address, the accesses of the window that reach no register are those of 20_memory.md R45 and R46. -/
theorem State.target_eq_none_iff {s : State} {addr width : Nat} (hb : s.base % 4 = 0)
    (hw : s.inWindow addr = true) :
    s.target addr width = none ↔ width ≠ 4 ∨ addr % 4 ≠ 0 ∨ addr = s.base + 0x1C := by
  have hw' := (s.inWindow_iff addr).1 hw
  constructor
  · intro h
    by_contra hc
    simp only [ne_eq, not_or, not_not] at hc
    obtain ⟨rfl, h4, h5⟩ := hc
    obtain ⟨r, hr⟩ := exists_reg_offset (off := addr - s.base) (by omega) (by omega)
    obtain rfl : addr = s.base + r.offset := by omega
    rw [s.target_offset] at h
    exact absurd h (by simp)
  · intro h
    cases ht : s.target addr width with
    | none => rfl
    | some r =>
      obtain ⟨rfl, rfl⟩ := State.target_eq_some hw ht
      have := r.offset_mod_four
      have h5 : r.offset ≠ 0x1C := by cases r <;> decide
      omega

theorem hostRead_offset (s : State) (r : Reg) :
    hostRead (s.base + r.offset) 4 s = .next (s.returnWord (s.readReg r)) := by
  simp only [hostRead, s.inWindow_offset r, if_true, s.target_offset r]

theorem hostWrite_offset (s : State) (r : Reg) (v : Word) :
    hostWrite (s.base + r.offset) 4 v s = writeReg r v s := by
  simp only [hostWrite, s.inWindow_offset r, if_true, s.target_offset r]

/-- Writing a command's word to CMD runs the command. -/
theorem commandWrite_encode (i : Instr) (s : State) : commandWrite (encode i) s = exec i s := by
  cases i <;> rfl

/-- A step takes the next event and runs it on the state without it. -/
theorem step_cons {s : State} {e : Event} {rest : List Event} (h : s.pending = e :: rest) :
    step s = runEvent e (s.setPending rest) := by
  simp only [step, takeStep, h]

theorem step_nil {s : State} (h : s.pending = []) : step s = .next s := by
  simp only [step, takeStep, h]

/-- Every way one bus event can answer a next state. -/
theorem runEvent_cases {e : Event} {s t : State} (h : runEvent e s = .next t) :
    (∃ r, e = .access (.read (s.base + r.offset) 4) ∧ t = s.returnWord (s.readReg r)) ∨
    (∃ addr width, e = .access (.read addr width) ∧ s.inWindow addr = true ∧
      s.target addr width = none ∧ t = s.setIll.returnWord 0) ∨
    (∃ r v, e = .access (.write (s.base + r.offset) 4 v) ∧ writeReg r v s = .next t) ∨
    (∃ addr width v, e = .access (.write addr width v) ∧ s.inWindow addr = true ∧
      s.target addr width = none ∧ t = s.setIll) ∨
    (∃ c, e = .reset c ∧ t = s.resetRegisters) := by
  rcases e with (⟨addr, width⟩ | ⟨addr, width, v⟩) | c | a
  · simp only [runEvent, hostRead] at h
    split at h
    · next hw =>
      split at h
      · next r hr =>
        obtain ⟨rfl, rfl⟩ := State.target_eq_some hw hr
        injection h with h
        exact .inl ⟨r, rfl, h.symm⟩
      · next hr =>
        injection h with h
        exact .inr (.inl ⟨addr, width, rfl, hw, hr, h.symm⟩)
    · exact absurd h (by simp)
  · simp only [runEvent, hostWrite] at h
    split at h
    · next hw =>
      split at h
      · next r hr =>
        obtain ⟨rfl, rfl⟩ := State.target_eq_some hw hr
        exact .inr (.inr (.inl ⟨r, v, rfl, h⟩))
      · next hr =>
        injection h with h
        exact .inr (.inr (.inr (.inl ⟨addr, width, v, rfl, hw, hr, h.symm⟩)))
    · exact absurd h (by simp)
  · simp only [runEvent] at h
    injection h with h
    exact .inr (.inr (.inr (.inr ⟨c, rfl, h.symm⟩)))
  · exact absurd h (by simp [runEvent])

/-- Every way a legal write can answer a next state. -/
theorem writeReg_cases {r : Reg} {v : Word} {s t : State} (h : writeReg r v s = .next t) :
    (r = .cmd ∧ ∃ i, decodeWord v = .ok i ∧ exec i s = .next t) ∨
    (r = .cmd ∧ (∃ e, decodeWord v = .error e) ∧ t = s.setIll) ∨
    (r = .opa ∧ t = s.setOpa v) ∨ (r = .opb ∧ t = s.setOpb v) ∨ (r = .opc ∧ t = s.setOpc v) ∨
    (r = .brt ∧ t = s.writeBrt v) ∨ (r = .res ∧ t = s) ∨ (r = .status ∧ t = s.clearSticky v) := by
  cases r
  case cmd =>
    simp only [writeReg, commandWrite] at h
    split at h
    · next i hi => exact .inl ⟨rfl, i, hi, h⟩
    · next e he =>
      injection h with h
      exact .inr (.inl ⟨rfl, ⟨e, he⟩, h.symm⟩)
  all_goals
    simp only [writeReg] at h
    injection h with h
    simp [h.symm]

/-- A step on a legal read. -/
theorem step_read {s : State} {rest : List Event} (r : Reg)
    (h : s.pending = .access (.read (s.base + r.offset) 4) :: rest) :
    step s = .next ((s.setPending rest).returnWord ((s.setPending rest).readReg r)) := by
  rw [step_cons h]
  exact hostRead_offset (s.setPending rest) r

/-- A step on a legal write. -/
theorem step_write {s : State} {rest : List Event} {v : Word} (r : Reg)
    (h : s.pending = .access (.write (s.base + r.offset) 4 v) :: rest) :
    step s = writeReg r v (s.setPending rest) := by
  rw [step_cons h]
  exact hostWrite_offset (s.setPending rest) r v

/-- Every way a step on a bus event can answer a next state. -/
theorem step_cons_cases {s t : State} {e : Event} {rest : List Event} (hp : s.pending = e :: rest)
    (h : step s = .next t) :
    (∃ r, e = .access (.read (s.base + r.offset) 4) ∧
      t = (s.setPending rest).returnWord ((s.setPending rest).readReg r)) ∨
    (∃ addr width, e = .access (.read addr width) ∧ s.inWindow addr = true ∧
      s.target addr width = none ∧ t = (s.setPending rest).setIll.returnWord 0) ∨
    (∃ r v, e = .access (.write (s.base + r.offset) 4 v) ∧ writeReg r v (s.setPending rest) = .next t) ∨
    (∃ addr width v, e = .access (.write addr width v) ∧ s.inWindow addr = true ∧
      s.target addr width = none ∧ t = (s.setPending rest).setIll) ∨
    (∃ c, e = .reset c ∧ t = (s.setPending rest).resetRegisters) := by
  rw [step_cons hp] at h
  exact runEvent_cases h

/-- A step answers the same state with no event to come, or runs the next event. -/
theorem step_next_cases {s t : State} (h : step s = .next t) :
    (s.pending = [] ∧ t = s) ∨ ∃ e rest, s.pending = e :: rest := by
  cases hp : s.pending with
  | nil =>
    rw [step_nil hp] at h
    injection h with h
    exact .inl ⟨rfl, h.symm⟩
  | cons e rest => exact .inr ⟨e, rest, rfl⟩

end Sys2Proof.Machine
end

