-- ==== Sys2Proof/Laws/Decode.lean ====
section
/-! SUPPORT. The decoder and the byte lanes, in the terms later proofs use. -/

namespace Sys2Proof

theorem lane_toNat (v : Word) (k : Nat) : (lane v k).toNat = v.toNat / 2 ^ (8 * k) % 2 ^ 8 := by
  simp [lane, Nat.shiftRight_eq_div_pow]

theorem wordOfLanes_toNat (b0 b1 b2 b3 : Byte) :
    (wordOfLanes b0 b1 b2 b3).toNat =
      b3.toNat * 2 ^ 24 + b2.toNat * 2 ^ 16 + b1.toNat * 2 ^ 8 + b0.toNat := by
  have h0 := b0.isLt
  have h1 := b1.isLt
  have h2 := b2.isLt
  have h3 := b3.isLt
  show (b3 ++ b2 ++ b1 ++ b0).toNat = _
  rw [BitVec.toNat_append, BitVec.toNat_append, BitVec.toNat_append,
    ← Nat.shiftLeft_add_eq_or_of_lt h0, ← Nat.shiftLeft_add_eq_or_of_lt h1,
    ← Nat.shiftLeft_add_eq_or_of_lt h2]
  simp only [Nat.shiftLeft_eq]
  omega

/-- The four lanes of a word make the word again. -/
theorem wordOfLanes_lanes (v : Word) : wordOfLanes (lane v 0) (lane v 1) (lane v 2) (lane v 3) = v := by
  have hv := v.isLt
  apply BitVec.eq_of_toNat_eq
  rw [wordOfLanes_toNat, lane_toNat, lane_toNat, lane_toNat, lane_toNat]
  omega

/-- The bytes of a word decode as the word does. -/
theorem decodeBytes_lanes (w : Word) : decodeBytes (lanes w) = decodeWord w := by
  rw [lanes, decodeBytes, wordOfLanes_lanes]

end Sys2Proof
end

