-- ==== Sys2Proof/Laws/Exec.lean ====
section
/-! SUPPORT. What every command does, said once: `exec` answers the same state or a state with a new result, whose RES and
ADJ bits are functions of the operand registers and the brightness. -/

namespace Sys2Proof.Machine

/-- The result a command other than NOP writes to RES. -/
def resultOf : Instr → State → Color
  | .nop, s => s.res
  | .pack, s => pack s.opa s.opb s.opc
  | .unpackr, s => zextChannel (redOf s.opa)
  | .unpackg, s => zextChannel (greenOf s.opa)
  | .unpackb, s => zextChannel (blueOf s.opa)
  | .hsl, s => hsl (sint s.opa) (sint s.opb) (sint s.opc)
  | .scale, s => scaleColor s.opa s.brt
  | .scalech, s => zextChannel (scale8 (lowByte s.opa) s.brt)

/-- The ADJ bits a command other than NOP writes. -/
def adjOf : Instr → State → Adj
  | .nop, s => ⟨s.hadj, s.sadj, s.ladj, s.madj⟩
  | .pack, s => packAdj s
  | .unpackr, s => colorAdj s
  | .unpackg, s => colorAdj s
  | .unpackb, s => colorAdj s
  | .hsl, s => hslAdj s
  | .scale, s => colorAdj s
  | .scalech, s => channelAdj s

/-- Every command answers a next state: the old one with its result written. -/
theorem exec_eq (i : Instr) (s : State) : exec i s = .next (s.setResult (resultOf i s) (adjOf i s)) := by
  cases i <;> rfl

theorem exec_next_iff (i : Instr) (s t : State) :
    exec i s = .next t ↔ t = s.setResult (resultOf i s) (adjOf i s) := by
  rw [exec_eq]
  constructor
  · intro h; injection h with h; exact h.symm
  · rintro rfl; rfl

/-- A result depends on the state through the operand registers and the brightness alone. -/
theorem resultOf_congr (i : Instr) (s u : State) (hi : i ≠ .nop) (ha : s.opa = u.opa) (hb : s.opb = u.opb)
    (hc : s.opc = u.opc) (hr : s.brt = u.brt) : resultOf i s = resultOf i u := by
  cases i <;> simp_all [resultOf]

/-- So do the ADJ bits, and they do not depend on the brightness. -/
theorem adjOf_congr (i : Instr) (s u : State) (hi : i ≠ .nop) (ha : s.opa = u.opa) (hb : s.opb = u.opb)
    (hc : s.opc = u.opc) : adjOf i s = adjOf i u := by
  cases i <;> simp_all [adjOf, packAdj, colorAdj, channelAdj, hslAdj]

/-- MADJ and the other ADJ bits are never computed together. -/
theorem adjOf_madj_alone (i : Instr) (s : State) (hi : i ≠ .nop) (h : (adjOf i s).madj = true) :
    (adjOf i s).hadj = false ∧ (adjOf i s).sadj = false ∧ (adjOf i s).ladj = false := by
  cases i <;> simp_all [adjOf, packAdj, colorAdj, channelAdj, hslAdj, maskAdj]

end Sys2Proof.Machine
end

