-- ==== Sys2Proof/Laws/Hsl.lean ====
section
/-! SUPPORT. The HSL converter's functions in plain integer arithmetic, on the reduced inputs. -/

namespace Sys2Proof.Machine

theorem iabs_eq (a : Int) : iabs a = |a| := by
  unfold iabs
  split
  · rw [abs_of_neg ‹_›]
  · rw [abs_of_nonneg (by omega)]

theorem idiv_eq {a : Int} (b : Int) (h : 0 ≤ a) : idiv a b = a / b := Int.tdiv_eq_ediv_of_nonneg h

theorem shr_eq (a : Int) (k : Nat) : shr a k = a / 2 ^ k := by
  unfold shr
  rw [Int.fdiv_eq_ediv_of_nonneg]
  positivity

theorem clampPercent_eq (a : Int) : clampPercent a = max 0 (min 99 a) := by
  unfold clampPercent clamp
  split
  · omega
  · split <;> omega

theorem clampPercent_range (a : Int) : 0 ≤ clampPercent a ∧ clampPercent a ≤ 99 := by
  rw [clampPercent_eq]
  omega

theorem reduceHue_eq (a : Int) : reduceHue a = a % 360 := rfl

theorem reduceHue_range (a : Int) : 0 ≤ reduceHue a ∧ reduceHue a ≤ 359 := by
  rw [reduceHue_eq]
  omega

theorem chroma_eq {l s : Int} (hl : 0 ≤ l) (hl' : l ≤ 99) (hs : 0 ≤ s) :
    chroma l s = (100 - |2 * l - 100|) * s * 256 / 10000 := by
  have h : 0 ≤ 100 - |2 * l - 100| := by
    have := abs_le.2 (show -100 ≤ 2 * l - 100 ∧ 2 * l - 100 ≤ 100 by omega)
    omega
  rw [chroma, iabs_eq, idiv_eq]
  positivity

theorem sector_eq {h : Int} (hh : 0 ≤ h) : sector h = h / 60 := idiv_eq _ hh

theorem sectorFraction_eq {h : Int} (hh : 0 ≤ h) : sectorFraction h = h % 60 * 256 / 60 := by
  rw [sectorFraction, sector_eq hh, idiv_eq]
  · congr 2
    omega
  · omega

theorem sectorFraction_range {h : Int} (hh : 0 ≤ h) :
    0 ≤ sectorFraction h ∧ sectorFraction h ≤ 251 := by
  rw [sectorFraction_eq hh]
  omega

theorem sectorDistance_eq {h : Int} (hh : 0 ≤ h) :
    sectorDistance h = |h / 60 % 2 * 256 + sectorFraction h - 256| := by
  rw [sectorDistance, iabs_eq, sector_eq hh]
  rfl

/-- What the component rises or falls by: the fraction in an even sector, its complement in an odd one. -/
theorem sectorDistance_cases {h : Int} (hh : 0 ≤ h) :
    (h / 60 % 2 = 0 ∧ sectorDistance h = 256 - sectorFraction h) ∨
      (h / 60 % 2 = 1 ∧ sectorDistance h = sectorFraction h) := by
  have := sectorFraction_range hh
  rw [sectorDistance_eq hh]
  rcases Int.emod_two_eq_zero_or_one (h / 60) with h2 | h2 <;> rw [h2]
  · refine .inl ⟨rfl, ?_⟩
    rw [abs_of_nonpos] <;> omega
  · refine .inr ⟨rfl, ?_⟩
    rw [abs_of_nonneg] <;> omega

theorem sectorDistance_range {h : Int} (hh : 0 ≤ h) : 0 ≤ sectorDistance h ∧ sectorDistance h ≤ 256 := by
  have := sectorFraction_range hh
  rcases sectorDistance_cases hh with h | h <;> omega

end Sys2Proof.Machine
end

