-- ==== Sys2Proof/Laws/PerInstr.lean ====
section
/-! SUPPORT. The statements about every command as syntax, one lemma per constructor. -/

namespace Sys2Proof.Laws.RoundTrip

/-- The command's word is legal, decodes to the command, and so do its bytes. -/
def Statement (i : Instr) : Prop :=
  wordWellFormed (encode i) = true ∧ decodeWord (encode i) = .ok i ∧ decodeBytes (encodeBytes i) = .ok i

theorem nop : Statement .nop := ⟨rfl, rfl, rfl⟩
theorem pack : Statement .pack := ⟨rfl, rfl, rfl⟩
theorem unpackr : Statement .unpackr := ⟨rfl, rfl, rfl⟩
theorem unpackg : Statement .unpackg := ⟨rfl, rfl, rfl⟩
theorem unpackb : Statement .unpackb := ⟨rfl, rfl, rfl⟩
theorem hsl : Statement .hsl := ⟨rfl, rfl, rfl⟩
theorem scale : Statement .scale := ⟨rfl, rfl, rfl⟩
theorem scalech : Statement .scalech := ⟨rfl, rfl, rfl⟩

end Sys2Proof.Laws.RoundTrip
end

