-- ==== Sys2Proof/Laws/Run.lean ====
section
/-! SUPPORT. Runs of several steps, one step at a time. -/

namespace Sys2Proof.Machine

@[simp] theorem run_zero (s : State) : run 0 s = .next s := rfl

theorem run_succ_of_next {s t : State} (n : Nat) (h : step s = .next t) : run (n + 1) s = run n t := by
  rw [run, h]

theorem run_succ_of_refused {s : State} {r : Refusal} (n : Nat) (h : step s = .refused r) :
    run (n + 1) s = .refused r := by
  rw [run, h]

end Sys2Proof.Machine
end

