-- ==== Sys2Proof/Tests/Slice0.lean ====
section
/-! SUPPORT. The model's own tests. Every expected value is a vector of 95_test_vectors.md or an example of a rule; the
witnesses at the end meet the hypotheses of the statements. -/

namespace Sys2Proof.Tests
open Sys2Proof Sys2Proof.Machine

/-! ## Well-formedness: each check refuses an ill-formed term -/

theorem test_wf_reserved_opcode : wordWellFormed 0x00000008 = false := by decide
theorem test_wf_reserved_bits : wordWellFormed 0x00000011 = false := by decide
theorem test_wf_last_opcode : wordWellFormed 0x00000007 = true := by decide
theorem test_wf_base : baseWellFormed 0x102 = false ∧ baseWellFormed 0x100 = true := by decide
theorem test_wf_offset : offsetWellFormed 0x20 = false ∧ offsetWellFormed 0x1F = true := by decide
theorem test_wf_value_high : valueWellFormed 4294967296 = false ∧ valueWellFormed 4294967295 = true := by decide
theorem test_wf_value_low : valueWellFormed (-2147483649) = false ∧ valueWellFormed (-2147483648) = true := by decide
theorem test_wf_line : (AsmLine.wrRaw 0x20 5).wellFormed = false ∧ (AsmLine.wrRaw 0x06 5).wellFormed = true := by
  decide

/-! ## Decoding: words written out from 30_encoding.md R60 and R62, RSV then OP -/

theorem test_decode_nop : decodeWord 0b0000000000000000000000000000_0000#32 = .ok .nop := by rfl
theorem test_decode_pack : decodeWord 0b0000000000000000000000000000_0001#32 = .ok .pack := by rfl
theorem test_decode_unpackr : decodeWord 0b0000000000000000000000000000_0010#32 = .ok .unpackr := by rfl
theorem test_decode_unpackg : decodeWord 0b0000000000000000000000000000_0011#32 = .ok .unpackg := by rfl
theorem test_decode_unpackb : decodeWord 0b0000000000000000000000000000_0100#32 = .ok .unpackb := by rfl
theorem test_decode_hsl : decodeWord 0b0000000000000000000000000000_0101#32 = .ok .hsl := by rfl
theorem test_decode_scale : decodeWord 0b0000000000000000000000000000_0110#32 = .ok .scale := by rfl
theorem test_decode_scalech : decodeWord 0b0000000000000000000000000000_0111#32 = .ok .scalech := by rfl
theorem test_decode_reserved_opcode : decodeWord 0x00000008 = .error .reservedOpcode := by rfl
theorem test_decode_reserved_bits : decodeWord 0x00000011 = .error .reservedBits := by rfl
theorem test_decode_top_bit : decodeWord 0x80000001 = .error .reservedBits := by rfl
theorem test_decode_bytes : decodeBytes [0x05, 0x00, 0x00, 0x00] = .ok .hsl := by rfl
theorem test_decode_bytes_high_lane : decodeBytes [0x05, 0x00, 0x00, 0x01] = .error .reservedBits := by rfl
theorem test_decode_short : decodeBytes [0x05, 0x00, 0x00] = .error .notOneWord := by rfl
theorem test_decode_table_word : decodeTableWord 32 6 = some .scale ∧ decodeTableWord 32 9 = none := by decide

/-! ## Commands: the vectors of 95_test_vectors.md section 2 -/

/-- The reset state with operands and brightness. -/
def operands (a b c : Word) (br : Byte) : State := { State.reset with opa := a, opb := b, opc := c, brt := br }

/-- RES and STATUS after an outcome. -/
def resAndStatus : Host.Outcome State Fault Refusal → Option (Color × Word)
  | .next s => some (s.res, s.statusWord)
  | .fault _ => none
  | .refused _ => none

theorem test_pack_purple :
    resAndStatus (exec .pack (operands 0x8A 0x2B 0xE2 255)) = some (0x8A2BE2, 0x000) := by decide
theorem test_pack_masks :
    resAndStatus (exec .pack (operands 0x12345678 0x9A 0xBC 255)) = some (0x789ABC, 0x010) := by decide
theorem test_unpackr_orange : resAndStatus (exec .unpackr (operands 0xFF3300 0 0 255)) = some (0xFF, 0x000) := by decide
theorem test_unpackr_masks : resAndStatus (exec .unpackr (operands 0x01000000 0 0 255)) = some (0x00, 0x011) := by decide
theorem test_unpackg_purple : resAndStatus (exec .unpackg (operands 0x8A2BE2 0 0 255)) = some (0x2B, 0x000) := by decide
theorem test_unpackb_purple : resAndStatus (exec .unpackb (operands 0x8A2BE2 0 0 255)) = some (0xE2, 0x000) := by decide
theorem test_hsl_sector_three :
    resAndStatus (exec .hsl (operands 210 40 60 255)) = some (0x7199C2, 0x000) := by decide
theorem test_hsl_lowest_hue :
    resAndStatus (exec .hsl (operands 0x80000000 99 50 255)) = some (0x0123FE, 0x002) := by decide
theorem test_scale_purple : resAndStatus (exec .scale (operands 0x8A2BE2 0 0 100)) = some (0x351058, 0x000) := by decide
theorem test_scale_identity : resAndStatus (exec .scale (operands 0xFF0000 0 0 255)) = some (0xFF0000, 0x000) := by
  decide
theorem test_scalech_masks : resAndStatus (exec .scalech (operands 511 0 0 128)) = some (127, 0x010) := by decide
theorem test_scalech_254 : resAndStatus (exec .scalech (operands 255 0 0 254)) = some (253, 0x000) := by decide

/-- 40_command.md R72's example. -/
theorem test_nop_keeps_flags :
    resAndStatus (exec .nop { operands 0 0 0 255 with res := 0xFE0101, sadj := true }) = some (0xFE0101, 0x004) := by
  decide

/-! ## Register access: 95_test_vectors.md section 2.6 -/

/-- A unit at 0x100 after reset, with the events the host has for it. -/
def bench (es : List Event) : State := { State.reset with base := 0x100, pending := es }

/-- The state after an outcome. -/
def stateOf : Host.Outcome State Fault Refusal → Option State
  | .next s => some s
  | .fault _ => none
  | .refused _ => none

theorem test_illegal_command :
    stateOf (step (bench [.access (.write 0x100 4 0x11)])) = some { bench [] with ill := true } := by decide
theorem test_read_cmd :
    stateOf (step (bench [.access (.read 0x100 4)])) = some { bench [] with returned := [0] } := by decide
theorem test_write_reserved :
    stateOf (step (bench [.access (.write 0x11C 4 5)])) = some { bench [] with ill := true } := by decide
theorem test_read_reserved :
    stateOf (step (bench [.access (.read 0x11C 4)])) = some { bench [] with ill := true, returned := [0] } := by decide
theorem test_misaligned_write :
    stateOf (step (bench [.access (.write 0x106 4 5)])) = some { bench [] with ill := true } := by decide
theorem test_byte_write :
    stateOf (step (bench [.access (.write 0x104 1 5)])) = some { bench [] with ill := true } := by decide
theorem test_write_res :
    stateOf (step (bench [.access (.write 0x114 4 0x123456)])) = some (bench []) := by decide
theorem test_clear_bchg :
    stateOf (step { bench [.access (.write 0x118 4 0x100)] with bchg := true, ill := true }) =
      some { bench [] with bchg := false, ill := true } := by decide
theorem test_brightness_masked_unchanged :
    stateOf (step { bench [.access (.write 0x110 4 384)] with brt := 128 }) = some { bench [] with brt := 128 } := by
  decide
theorem test_brightness_masked_changed :
    stateOf (step (bench [.access (.write 0x110 4 0x12C)])) = some { bench [] with brt := 0x2C, bchg := true } := by
  decide
theorem test_read_status_after_reset :
    stateOf (step (bench [.access (.read 0x118 4)])) = some { bench [] with returned := [0x00000001] } := by decide

/-- The host's own way of running a word from reset. -/
theorem test_fetch_word_runs :
    stateOf (step (State.reset.withFetchWord 32 1)) = stateOf (exec .pack State.reset) := by decide

/-- 95_test_vectors.md, program P1, line `wr OPA, 0x8A`, and line `rd RES`. -/
theorem test_listing :
    (AsmLine.wr .opa 0x8A).listing = ['W', ' ', '0', '4', ' ', '0', '0', '0', '0', '0', '0', '8', 'A'] ∧
      (AsmLine.rd .res).listing = ['R', ' ', '1', '4'] := by decide

/-- 95_test_vectors.md, program P4, line `wr OPA, -120`. -/
theorem test_listing_negative :
    (AsmLine.wr .opa (-120)).listing = ['W', ' ', '0', '4', ' ', 'F', 'F', 'F', 'F', 'F', 'F', '8', '8'] := by decide

/-! ## Witnesses: states and operands that meet the hypotheses of the statements -/

/-- One legal write of the host. -/
def wr (off : Nat) (v : Word) : Event := .access (.write (0x100 + off) 4 v)

/-- One legal read of the host. -/
def rd (off : Nat) : Event := .access (.read (0x100 + off) 4)

theorem witness_ResetEventEntersTheResetState :
    (bench [.reset .powerOn]).pending = .reset .powerOn :: [] ∧
      (bench [.reset .signal, rd 0]).pending = .reset .signal :: [rd 0] := ⟨rfl, rfl⟩

theorem witness_DecodeAndEncodeAgree :
    decodeWord 7 = .ok .scalech ∧ decodeBytes [7, 0, 0, 0] = .ok .scalech := ⟨rfl, rfl⟩

theorem witness_IllegalCommandOnlySetsIll :
    (bench [wr 0 8]).pending = .access (.write (bench [wr 0 8]).base 4 8) :: [] ∧
      (8 ≤ (8 : Word).toNat % 16 ∨ (8 : Word).toNat / 16 ≠ 0) ∧
      (8 ≤ (0x10 : Word).toNat % 16 ∨ (0x10 : Word).toNat / 16 ≠ 0) ∧
      (bench [wr 0 0x11]).pending = .access (.write (bench [wr 0 0x11]).base 4 0x00000011) :: [] ∧
      ({ bench [wr 0 8] with res := 0x123456 } : State).ill = false := by
  refine ⟨rfl, by decide, by decide, rfl, rfl⟩

theorem witness_StepRunsTheDecodedCommand :
    (bench [wr 0 5]).pending = .access (.write (bench [wr 0 5]).base 4 5) :: [] ∧
      decodeBytes (lanes 5) = .ok .hsl ∧ decodeTableWord 32 5 = some .hsl := ⟨rfl, rfl, by decide⟩

theorem witness_PackResult :
    (∃ t, exec .pack (operands 0 0 0 255) = .next t) ∧ (∃ t, exec .pack (operands 256 256 256 255) = .next t) ∧
      (∃ t, exec .pack (operands 0xFFFFFFFF 0xFFFFFFFF 0xFFFFFFFF 255) = .next t) ∧
      ∃ t, exec .pack (operands 0x8A 0x2B 0xE2 255) = .next t := ⟨⟨_, rfl⟩, ⟨_, rfl⟩, ⟨_, rfl⟩, ⟨_, rfl⟩⟩

theorem witness_UnpackResults :
    (∃ t, exec .unpackr (operands 0xFF3300 0 0 255) = .next t) ∧
      (∃ t, exec .unpackg (operands 0xFF3300 0 0 255) = .next t) ∧
      ∃ t, exec .unpackb (operands 0x8A2BE2 0 0 255) = .next t := ⟨⟨_, rfl⟩, ⟨_, rfl⟩, ⟨_, rfl⟩⟩

/-- The values 95_test_vectors.md section 2.3 gives for h = 30, s = 99, l = 50 (sector 0). -/
theorem witness_HslResult_values :
    ∃ h' s' l' c h1 h2 temp x m : Int,
      h' = (30 : Word).toInt % 360 ∧ s' = max 0 (min 99 (99 : Word).toInt) ∧ l' = max 0 (min 99 (50 : Word).toInt) ∧
        c = (100 - |2 * l' - 100|) * s' * 256 / 10000 ∧ h1 = h' / 60 ∧ h2 = (h' - 60 * h1) * 256 / 60 ∧
        temp = |h1 % 2 * 256 + h2 - 256| ∧ x = c * (256 - temp) / 256 ∧ m = (l' * 2 * 256 / 100 - c) / 2 ∧
        h1 = 0 ∧ x = 126 :=
  ⟨30, 99, 50, 253, 0, 128, 128, 126, 1, by decide, by decide, by decide, by decide, by decide, by decide, by decide,
    by decide, by decide, rfl, rfl⟩

/-- The first and the last hue of every sector. -/
theorem witness_HslResult_sectors :
    ((0 : Word).toInt % 360 / 60 = 0 ∧ (59 : Word).toInt % 360 / 60 = 0) ∧
      ((60 : Word).toInt % 360 / 60 = 1 ∧ (119 : Word).toInt % 360 / 60 = 1) ∧
      ((120 : Word).toInt % 360 / 60 = 2 ∧ (179 : Word).toInt % 360 / 60 = 2) ∧
      ((180 : Word).toInt % 360 / 60 = 3 ∧ (239 : Word).toInt % 360 / 60 = 3) ∧
      ((240 : Word).toInt % 360 / 60 = 4 ∧ (299 : Word).toInt % 360 / 60 = 4) ∧
      ((300 : Word).toInt % 360 / 60 = 5 ∧ (359 : Word).toInt % 360 / 60 = 5) := by decide

theorem witness_ScaleResult :
    (operands 0xFFFFFF 0 0 254).brt.toNat < 255 ∧ (operands 0xFFFFFF 0 0 255).brt.toNat = 255 ∧
      (∃ t, exec .scale (operands 0xFFFFFF 0 0 0) = .next t) ∧ (∃ t, exec .scale (operands 0xFFFFFF 0 0 1) = .next t) ∧
      (∃ t, exec .scale (operands 0x010101 0 0 128) = .next t) ∧ ∃ t, exec .scale (operands 0xFF0000 0 0 128) = .next t :=
  ⟨by decide, by decide, ⟨_, rfl⟩, ⟨_, rfl⟩, ⟨_, rfl⟩, ⟨_, rfl⟩⟩

theorem witness_ScalechResult :
    (operands 200 0 0 100).brt.toNat < 255 ∧ (operands 200 0 0 255).brt.toNat = 255 ∧
      (∃ t, exec .scalech (operands 256 0 0 0) = .next t) ∧ (∃ t, exec .scalech (operands 256 0 0 1) = .next t) ∧
      ∃ t, exec .scalech (operands 200 0 0 100) = .next t :=
  ⟨by decide, by decide, ⟨_, rfl⟩, ⟨_, rfl⟩, ⟨_, rfl⟩⟩

theorem witness_AdjBitsFollowTheTable : Instr.pack ≠ .nop ∧ Instr.scalech ≠ .nop := by decide

/-- Two states that agree on what a command reads and differ elsewhere. -/
theorem witness_CommandsReadOnlyOperandsAndBrightness :
    ∃ s u t v : State, s ≠ u ∧ s.opa = u.opa ∧ s.opb = u.opb ∧ s.opc = u.opc ∧ s.brt = u.brt ∧
      exec .hsl s = .next t ∧ exec .hsl u = .next v :=
  ⟨operands 30 99 50 255, { operands 30 99 50 255 with res := 1, ill := true }, _, _, by decide, rfl, rfl, rfl, rfl,
    rfl, rfl⟩

theorem witness_RepeatedCommandChangesNothing : ∃ t, exec .hsl (operands 30 99 50 255) = .next t := ⟨_, rfl⟩

theorem witness_PackAndUnpackRoundTrip :
    (∃ t r g b, exec .pack (operands 0x8A 0x2B 0xE2 255) = .next t ∧
      (operands 0x8A2BE2 0 0 255).opa.toNat = t.res.toNat ∧ exec .unpackr (operands 0x8A2BE2 0 0 255) = .next r ∧
      exec .unpackg (operands 0x8A2BE2 0 0 255) = .next g ∧ exec .unpackb (operands 0x8A2BE2 0 0 255) = .next b) ∧
    ∃ r g b t, exec .unpackr (operands 0x8A2BE2 0 0 255) = .next r ∧
      exec .unpackg (operands 0x8A2BE2 0 0 255) = .next g ∧ exec .unpackb (operands 0x8A2BE2 0 0 255) = .next b ∧
      (operands 0x8A 0x2B 0xE2 255).opa.toNat = r.res.toNat ∧ (operands 0x8A 0x2B 0xE2 255).opb.toNat = g.res.toNat ∧
      (operands 0x8A 0x2B 0xE2 255).opc.toNat = b.res.toNat ∧ exec .pack (operands 0x8A 0x2B 0xE2 255) = .next t :=
  ⟨⟨_, _, _, _, rfl, rfl, rfl, rfl, rfl⟩, ⟨_, _, _, _, rfl, rfl, rfl, rfl, rfl, rfl, rfl⟩⟩

theorem witness_HueIsReducedModulo360 :
    (∃ t v, exec .hsl (operands 360 99 50 255) = .next t ∧ exec .hsl (operands 0 99 50 255) = .next v) ∧
      (360 : Int) ∣ (360 : Word).toInt - (0 : Word).toInt ∧ (0 : Int) ≤ 359 ∧ (359 : Int) ≤ 359 :=
  ⟨⟨_, _, rfl, rfl⟩, by decide, by decide, by decide⟩

theorem witness_PercentagesAreClamped :
    (∃ t v, exec .hsl (operands 45 100 100 255) = .next t ∧ exec .hsl (operands 45 99 99 255) = .next v) ∧
      (99 : Word).toInt = max 0 (min 99 (100 : Word).toInt) ∧ ((-1 : Int) < 0) ∧ ((99 : Int) < 100) :=
  ⟨⟨_, _, rfl, rfl⟩, by decide, by decide, by decide⟩

theorem witness_HslRangeLaws :
    ∃ h s l : Int, 0 ≤ h ∧ h ≤ 359 ∧ 0 ≤ s ∧ s ≤ 99 ∧ 0 ≤ l ∧ l ≤ 99 ∧ h = 359 ∧ s = 99 ∧ l = 99 :=
  ⟨359, 99, 99, by decide⟩

theorem witness_HslBlackExactlyAtZeroLightness :
    (∃ t, exec .hsl (operands 123 99 0 255) = .next t) ∧ ∃ t, exec .hsl (operands 123 99 1 255) = .next t :=
  ⟨⟨_, rfl⟩, ⟨_, rfl⟩⟩

theorem witness_HslGreyWithoutSaturation :
    (∃ t, exec .hsl (operands 0 0 99 255) = .next t) ∧ (0 : Word).toInt ≤ 0 ∧ 99 ≤ (99 : Word).toInt :=
  ⟨⟨_, rfl⟩, by decide, by decide⟩

theorem witness_HslPrimaryHues :
    (∃ t, exec .hsl (operands 0 100 50 255) = .next t) ∧ (∃ t, exec .hsl (operands 480 99 50 255) = .next t) ∧
      99 ≤ (99 : Word).toInt ∧ (50 : Word).toInt = 50 ∧ (0 : Word).toInt % 360 = 0 ∧ (480 : Word).toInt % 360 = 120 :=
  ⟨⟨_, rfl⟩, ⟨_, rfl⟩, by decide, by decide, by decide, by decide⟩

theorem witness_SecondLargestInterpolates :
    (59 : Int) / 60 % 2 = 0 ∧ (61 : Int) / 60 % 2 = 1 ∧ ((300 : Int) % 60 = 0 ∧ (300 : Int) / 60 % 2 = 1) ∧
      ((240 : Int) % 60 = 0 ∧ (240 : Int) / 60 % 2 = 0) := by decide

theorem witness_ScaleLaws : (1 : Byte).toNat ≤ (255 : Byte).toNat ∧ (254 : Byte).toNat < 255 := by decide

theorem witness_BrightnessWriteSetsBchgOnChange :
    (bench [wr 0x10 128]).pending = .access (.write ((bench [wr 0x10 128]).base + 0x10) 4 128) :: [] ∧
      (128 : Word).toNat % 256 ≠ (bench []).brt.toNat ∧ (0x1FF : Word).toNat % 256 = (bench []).brt.toNat ∧
      (∃ t, step { bench [wr 0x18 0x100] with bchg := true } = .next t ∧ t.bchg = false) ∧
      ∃ t, step { bench [wr 0x18 0x200] with bchg := true } = .next t ∧ t.bchg = true :=
  ⟨rfl, by decide, by decide, ⟨_, rfl, rfl⟩, ⟨_, rfl, rfl⟩⟩

theorem witness_ScaleUsesTheNewBrightness :
    (bench [wr 0x10 128, wr 0 6]).pending =
      .access (.write ((bench []).base + 0x10) 4 128) :: .access (.write (bench []).base 4 0x00000006) :: [] := rfl

theorem witness_LegalReadsReturnTheRegister :
    ∀ off ∈ [0x00, 0x04, 0x08, 0x0C, 0x10, 0x14, 0x18],
      (bench [rd off, rd off]).pending =
        .access (.read ((bench []).base + off) 4) :: .access (.read ((bench []).base + off) 4) :: [] :=
  fun _ _ => rfl

theorem witness_LegalWritesDoTheirRow :
    ∀ off ∈ [0x00, 0x04, 0x08, 0x0C, 0x10, 0x14, 0x18],
      (bench [wr off 5]).pending = .access (.write ((bench []).base + off) 4 5) :: [] :=
  fun _ _ => rfl

theorem witness_LegalWritesDoTheirRow_command :
    decodeWord 5 = .ok .hsl ∧ decodeWord 8 = .error .reservedOpcode := ⟨rfl, rfl⟩

theorem witness_OperandsReadBackAcrossACommand :
    ∀ off ∈ [0x04, 0x08, 0x0C], (bench [wr off 7, wr 0 1, rd off]).pending =
      .access (.write ((bench []).base + off) 4 7) :: .access (.write (bench []).base 4 1) ::
        .access (.read ((bench []).base + off) 4) :: [] := fun _ _ => rfl

theorem witness_ZIsLive : (bench [rd 0x18]).pending = .access (.read ((bench []).base + 0x18) 4) :: [] := rfl

theorem witness_StatusHasTheStatedLayout : ((5 ≤ 5 ∧ 5 ≤ 7) ∨ 10 ≤ 5) ∧ ((5 ≤ 10 ∧ 10 ≤ 7) ∨ 10 ≤ 10) := by decide

/-- A wrong width at the window's first and last byte, and the highest misaligned address whose 4 bytes are all inside. -/
theorem witness_MisalignedOrOddWidthAccessOnlySetsIll :
    (bench []).base % 4 = 0 ∧ (bench []).base ≤ 0x100 ∧ 0x11F < (bench []).base + 0x20 ∧
      (0x11F + 1 ≤ (bench []).base + 0x20 ∧ 0x11B + 4 ≤ (bench []).base + 0x20) ∧
      ((1 ≠ 4 ∨ 0x100 % 4 ≠ 0) ∧ (1 ≠ 4 ∨ 0x11F % 4 ≠ 0) ∧ (4 ≠ 4 ∨ 0x11B % 4 ≠ 0)) ∧
      (bench [.access (.write 0x11B 4 5)]).pending = .access (.write 0x11B 4 5) :: [] ∧
      (bench [.access (.read 0x11F 1)]).pending = .access (.read 0x11F 1) :: [] ∧
      (bench [.access (.read 0x100 1)]).pending = .access (.read 0x100 1) :: [] :=
  ⟨rfl, by decide, by decide, by decide, by decide, rfl, rfl, rfl⟩

/-- One byte too many, by the address and by the width. -/
theorem witness_WindowEndStraddlingAccessOnlySetsIll :
    (bench []).base % 4 = 0 ∧ (bench []).base ≤ 0x11C ∧ 0x11F < (bench []).base + 0x20 ∧
      ((bench []).base + 0x20 < 0x11D + 4 ∧ (bench []).base + 0x20 < 0x11C + 5) ∧
      (bench [.access (.write 0x11D 4 5)]).pending = .access (.write 0x11D 4 5) :: [] ∧
      (bench [.access (.read 0x11C 5)]).pending = .access (.read 0x11C 5) :: [] :=
  ⟨rfl, by decide, by decide, by decide, rfl, rfl⟩

theorem witness_ReservedWordAccessOnlySetsIll :
    (bench [wr 0x1C 5]).pending = .access (.write ((bench []).base + 0x1C) 4 5) :: [] ∧
      (bench [rd 0x1C]).pending = .access (.read ((bench []).base + 0x1C) 4) :: [] := ⟨rfl, rfl⟩

theorem witness_StickyBitsClearByWritingOne :
    (bench [wr 0x18 0x300]).pending = .access (.write ((bench []).base + 0x18) 4 0x300) :: [] ∧
      (0x300 : Word).getLsbD 8 = true ∧ (0x300 : Word).getLsbD 9 = true ∧ (0x0FF : Word).getLsbD 8 = false ∧
      (0x1FF : Word).getLsbD 9 = false ∧
      ∃ t, step { bench [wr 0x18 0x300] with bchg := true, ill := true } = .next t ∧ t.bchg = false ∧ t.ill = false :=
  ⟨rfl, by decide, by decide, by decide, by decide, ⟨_, rfl, rfl, rfl⟩⟩

theorem witness_RegisterWritesAreIdempotent :
    ∀ off ∈ [0x04, 0x08, 0x0C, 0x10, 0x14, 0x18], wr off 9 = .access (.write ((bench []).base + off) 4 9) :=
  fun _ _ => rfl

theorem witness_ReadAfterCommandSeesItsResult :
    (bench [wr 0 1, rd 0x14]).pending =
      .access (.write (bench []).base 4 (encode .pack)) :: .access (.read ((bench []).base + 0x14) 4) :: [] ∧
      ∃ t, exec .pack (bench []) = .next t := ⟨rfl, ⟨_, rfl⟩⟩

theorem witness_OnlyBrightnessWritesChangeBrt :
    (∃ t, step (bench [wr 0x10 128]) = .next t ∧ t.brt ≠ (bench []).brt) ∧
      ∃ t, step { bench [.reset .signal] with brt := 1 } = .next t ∧ t.brt ≠ 1 :=
  ⟨⟨_, rfl, by decide⟩, ⟨_, rfl, by decide⟩⟩

theorem witness_OnlyCommandsChangeResultAndAdj :
    (∃ t, step { bench [wr 0 1] with opa := 1 } = .next t ∧ t.res ≠ (bench []).res) ∧
      ∃ t, step { bench [.reset .signal] with madj := true } = .next t ∧ t.madj ≠ true :=
  ⟨⟨_, rfl, by decide⟩, ⟨_, rfl, by decide⟩⟩

theorem witness_OnlyOperandWritesChangeOperands :
    (∃ t, step (bench [wr 0x04 1]) = .next t ∧ t.opa ≠ (bench []).opa) ∧
      (∃ t, step (bench [wr 0x08 1]) = .next t ∧ t.opb ≠ (bench []).opb) ∧
      ∃ t, step (bench [wr 0x0C 1]) = .next t ∧ t.opc ≠ (bench []).opc :=
  ⟨⟨_, rfl, by decide⟩, ⟨_, rfl, by decide⟩, ⟨_, rfl, by decide⟩⟩

/-- ILL before and after a step at 0x100 on one event. -/
def illAfter (e : Event) : Option (Bool × Bool) :=
  (stateOf (step (bench [e]))).map fun t => ((bench [e]).ill, t.ill)

/-- Every row that raises ILL: an illegal command word, and a wrong width, a misaligned address, the reserved word and an
access past the window's end (log entry 4), by a read and by a write. A legal command, a legal read, a write to RES and
a reset do not. -/
theorem witness_IllRisesExactlyOnIllegalEvents :
    (bench []).base % 4 = 0 ∧
      (∀ e ∈ [wr 0 8, wr 0 0x10, wr 0x1C 5, rd 0x1C, wr 0x06 5, rd 0x06, wr 0x1D 5, rd 0x1D,
        .access (.write 0x104 1 5), .access (.read 0x104 2)], illAfter e = some (false, true)) ∧
      ∀ e ∈ [wr 0 7, rd 0x18, wr 0x14 5, .reset .signal], illAfter e = some (false, false) := by
  decide

/-- A read, a write and a reset. -/
theorem witness_StepTakesOneEvent :
    (∃ t, step (bench [rd 0x14, rd 0]) = .next t ∧ t.pending = [rd 0]) ∧
      (∃ t, step (bench [wr 0x04 1]) = .next t ∧ t.returned = []) ∧
      ∃ t, step (bench [.reset .signal, rd 0]) = .next t ∧ t.pending = [rd 0] :=
  ⟨⟨_, rfl, rfl⟩, ⟨_, rfl, rfl⟩, ⟨_, rfl, rfl⟩⟩

/-- The window's first and last address, the addresses next to them outside, and a second master. -/
theorem witness_AdmittedEventsCompleteAndOthersAreRefused :
    (Event.access (.read 0x100 1)).admitted 0x100 = true ∧ (Event.access (.read 0x11F 1)).admitted 0x100 = true ∧
      (Event.access (.read 0xFF 1)).admitted 0x100 = false ∧ (Event.access (.read 0x120 4)).admitted 0x100 = false ∧
      step (bench [.access (.read 0xFF 1)]) = .refused .outsideWindow ∧
      step (bench [.access (.write 0x120 4 0)]) = .refused .outsideWindow ∧
      step (bench [.otherMaster (.read 0x104 4)]) = .refused .secondMaster :=
  ⟨by decide, by decide, by decide, by decide, rfl, rfl, rfl⟩

theorem witness_SafeRunsComplete : (bench [wr 0x04 1, wr 0 1, rd 0x14, .reset .signal]).Safe := by
  intro e he
  simp only [bench, List.mem_cons, List.not_mem_nil, or_false] at he
  rcases he with rfl | rfl | rfl | rfl <;> decide

/-- A state with MADJ set, as PACK of 256 leaves it, meets the invariant and takes a step. -/
theorem witness_StepKeepsTheInvariant :
    ({ bench [wr 0 5] with madj := true } : State).Inv ∧ ∃ t, step { bench [wr 0 5] with madj := true } = .next t := by
  refine ⟨⟨rfl, fun _ => ⟨rfl, rfl, rfl⟩, .pack, operands 256 0 0 255, _, by decide, rfl, by decide, by decide⟩, _, rfl⟩

theorem witness_OnlyTheRegistersMatter :
    ∃ t, (bench [rd 0x10, rd 0]).pending = rd 0x10 :: [rd 0] ∧ step (bench [rd 0x10, rd 0]) = .next t :=
  ⟨_, rfl, rfl⟩

theorem witness_PseudoInstructionsRunTheirCommand :
    ∀ p : Pseudo, (bench (p.events 0x100)).pending = p.events (bench []).base ++ [] := by
  intro p
  rw [List.append_nil]
  rfl

theorem witness_WellFormedAsmLinesAreAnswered :
    (AsmLine.rdRaw 0x1F).wellFormed = true ∧
      (bench [(AsmLine.rdRaw 0x1F).event 0x100]).pending = (AsmLine.rdRaw 0x1F).event (bench []).base :: [] :=
  ⟨by decide, rfl⟩

theorem witness_IdleUnitHoldsItsState : (bench []).pending = [] := rfl

end Sys2Proof.Tests
end

section
/-! SUPPORT. The sticky bits of STATUS (10_state.md R27) and its live Z bit (R25). -/

namespace Sys2Proof.Machine

/-! ## The sticky bits -/

/-- `t` has BCHG and ILL wherever `s` has them. -/
def KeepsSticky (s t : State) : Prop :=
  (s.bchg = true → t.bchg = true) ∧ (s.ill = true → t.ill = true)

theorem keepsSticky_of_eq {s t : State} (hb : t.bchg = s.bchg) (hi : t.ill = s.ill) : KeepsSticky s t :=
  ⟨hb.trans, hi.trans⟩

theorem keepsSticky_setIll (s : State) : KeepsSticky s s.setIll := ⟨id, fun _ => rfl⟩

theorem keepsSticky_writeBrt (s : State) (v : Word) : KeepsSticky s (s.writeBrt v) :=
  ⟨fun hb => by simp [hb], id⟩

theorem exec_keepsSticky {i : Instr} {s t : State} (h : exec i s = .next t) : KeepsSticky s t := by
  rw [exec_next_iff] at h
  subst h
  exact keepsSticky_of_eq rfl rfl

/-- A legal write clears a sticky bit only if it is a write of STATUS. -/
theorem writeReg_status_or_keepsSticky {r : Reg} {v : Word} {s t : State} (h : writeReg r v s = .next t) :
    (r = .status ∧ t = s.clearSticky v) ∨ KeepsSticky s t := by
  rcases writeReg_cases h with ⟨-, i, -, hx⟩ | ⟨-, -, rfl⟩ | ⟨-, rfl⟩ | ⟨-, rfl⟩ | ⟨-, rfl⟩ | ⟨-, rfl⟩ |
    ⟨-, rfl⟩ | hstatus
  · exact .inr (exec_keepsSticky hx)
  · exact .inr (keepsSticky_setIll s)
  · exact .inr (keepsSticky_of_eq rfl rfl)
  · exact .inr (keepsSticky_of_eq rfl rfl)
  · exact .inr (keepsSticky_of_eq rfl rfl)
  · exact .inr (keepsSticky_writeBrt s v)
  · exact .inr (keepsSticky_of_eq rfl rfl)
  · exact .inl hstatus

/-- A step clears a sticky bit only if it takes a reset or a write of STATUS. -/
theorem step_reset_or_status_or_keepsSticky {s t : State} {e : Event} {rest : List Event}
    (hp : s.pending = e :: rest) (h : step s = .next t) :
    e.IsReset ∨ (∃ v, e.IsWrite s.base 0x18 v ∧ t = (s.setPending rest).clearSticky v) ∨ KeepsSticky s t := by
  rcases step_cons_cases hp h with ⟨r, -, rfl⟩ | ⟨_, _, -, -, -, rfl⟩ | ⟨r, v, he, hw⟩ |
    ⟨_, _, _, -, -, -, rfl⟩ | ⟨c, he, -⟩
  · exact .inr (.inr (keepsSticky_of_eq rfl rfl))
  · exact .inr (.inr (keepsSticky_setIll s))
  · rcases writeReg_status_or_keepsSticky hw with ⟨rfl, ht⟩ | hk
    · exact .inr (.inl ⟨v, he, ht⟩)
    · exact .inr (.inr hk)
  · exact .inr (.inr (keepsSticky_setIll s))
  · exact .inl ⟨c, he⟩

theorem step_bchg_cleared {s t : State} {e : Event} {rest : List Event} (hp : s.pending = e :: rest)
    (h : step s = .next t) (hs : s.bchg = true) (ht : t.bchg = false) :
    e.IsReset ∨ ∃ v, e.IsWrite s.base 0x18 v ∧ v.getLsbD 8 = true := by
  rcases step_reset_or_status_or_keepsSticky hp h with hr | ⟨v, he, rfl⟩ | ⟨hk, -⟩
  · exact .inl hr
  · exact .inr ⟨v, he, by simpa [hs] using ht⟩
  · exact absurd (hk hs) (by simp [ht])

theorem step_ill_cleared {s t : State} {e : Event} {rest : List Event} (hp : s.pending = e :: rest)
    (h : step s = .next t) (hs : s.ill = true) (ht : t.ill = false) :
    e.IsReset ∨ ∃ v, e.IsWrite s.base 0x18 v ∧ v.getLsbD 9 = true := by
  rcases step_reset_or_status_or_keepsSticky hp h with hr | ⟨v, he, rfl⟩ | ⟨-, hk⟩
  · exact .inl hr
  · exact .inr ⟨v, he, by simpa [hs] using ht⟩
  · exact absurd (hk hs) (by simp [ht])

/-- Settles O38: a write of STATUS is `clearSticky`, and every other event but a reset keeps both bits. -/
theorem stickyBitsClearByWritingOne : Obligations.StickyBitsClearByWritingOne := by
  refine ⟨rfl, rfl, fun s v rest hp => ?_, fun s t e rest hp h =>
    ⟨step_bchg_cleared hp h, step_ill_cleared hp h⟩⟩
  refine ⟨(s.setPending rest).clearSticky v, step_write .status hp, rfl, ?_, ?_, ?_, ?_⟩ <;> intro hv
  · rw [State.clearSticky_bchg, hv, Bool.not_true, Bool.and_false]
  · rw [State.clearSticky_bchg, hv, Bool.not_false, Bool.and_true, State.setPending_bchg]
  · rw [State.clearSticky_ill, hv, Bool.not_true, Bool.and_false]
  · rw [State.clearSticky_ill, hv, Bool.not_false, Bool.and_true, State.setPending_ill]

/-! ## The live Z bit -/

theorem State.z_iff (s : State) : s.z = true ↔ s.res = 0 := by rw [State.z, beq_iff_eq]

theorem State.statusWord_bit_zero (s : State) : s.statusWord.getLsbD 0 = s.z := by
  rw [State.statusWord, BitVec.getLsbD_setWidth, BitVec.getLsbD_append]
  simp

/-- Settles O34: a read of STATUS returns the STATUS word, whose bit 0 is Z. -/
theorem zIsLive : Obligations.ZIsLive := by
  refine ⟨fun s rest hp => ?_, by rw [State.statusWord_bit_zero, State.z_iff]; rfl⟩
  refine ⟨_, (s.setPending rest).statusWord, step_read .status hp, rfl, ?_⟩
  rw [State.statusWord_bit_zero, State.z_iff, State.setPending_res]

end Sys2Proof.Machine
end

section
/-! SUPPORT. The register window (20_memory.md R43 to R46): what legal reads and writes do, and that an illegal access
only sets ILL. -/

namespace Sys2Proof.Machine

/-! ## Illegal accesses -/

theorem State.inWindow_reserved (s : State) : s.inWindow (s.base + 0x1C) = true := by
  rw [State.inWindow_iff]
  omega

/-- No access of the reserved word reaches a register (20_memory.md R46). -/
theorem State.target_reserved (s : State) : s.target (s.base + 0x1C) 4 = none := by
  rw [State.target, if_pos (by rfl), Nat.add_sub_cancel_left]
  rfl

/-- A step on a write that reaches no register of the window. -/
theorem step_illegal_write {s : State} {addr width : Nat} {v : Word} {rest : List Event}
    (hw : s.inWindow addr = true) (ht : s.target addr width = none)
    (hp : s.pending = .access (.write addr width v) :: rest) :
    step s = .next (s.setPending rest).setIll := by
  have hw' : (s.setPending rest).inWindow addr = true := hw
  have ht' : (s.setPending rest).target addr width = none := ht
  simp only [step_cons hp, runEvent, hostWrite, hw', ht', if_true]

/-- A step on a read that reaches no register of the window. -/
theorem step_illegal_read {s : State} {addr width : Nat} {rest : List Event}
    (hw : s.inWindow addr = true) (ht : s.target addr width = none)
    (hp : s.pending = .access (.read addr width) :: rest) :
    step s = .next ((s.setPending rest).setIll.returnWord 0) := by
  have hw' : (s.setPending rest).inWindow addr = true := hw
  have ht' : (s.setPending rest).target addr width = none := ht
  simp only [step_cons hp, runEvent, hostRead, hw', ht', if_true]

/-- Settles O36: at an aligned base such an access is in the window and reaches no register. -/
theorem misalignedOrOddWidthAccessOnlySetsIll : Obligations.MisalignedOrOddWidthAccessOnlySetsIll := by
  intro s addr width rest hbase hlo hhi _ hbad
  have hw : s.inWindow addr = true := (s.inWindow_iff addr).2 ⟨hlo, hhi⟩
  have ht : s.target addr width = none := (State.target_eq_none_iff hbase hw).2 (hbad.imp_right .inl)
  exact ⟨fun _ => step_illegal_write hw ht, step_illegal_read hw ht⟩

/-- Settles O37: the reserved word is in the window and reaches no register, at any base. -/
theorem reservedWordAccessOnlySetsIll : Obligations.ReservedWordAccessOnlySetsIll :=
  fun s _ => ⟨fun _ => step_illegal_write s.inWindow_reserved s.target_reserved,
    step_illegal_read s.inWindow_reserved s.target_reserved⟩

/-! ## Legal reads -/

/-- Bit vectors side by side, as a number. -/
theorem append_toNat_eq_add {m n : Nat} (x : BitVec m) (y : BitVec n) :
    (x ++ y).toNat = 2 ^ n * x.toNat + y.toNat := by
  rw [BitVec.toNat_append, ← Nat.shiftLeft_add_eq_or_of_lt y.isLt, Nat.shiftLeft_eq, Nat.mul_comm]

/-- The STATUS word as a number: each flag at its place (10_state.md R24). -/
theorem State.statusWord_toNat (s : State) :
    s.statusWord.toNat = s.z.toNat + 2 * s.hadj.toNat + 4 * s.sadj.toNat + 8 * s.ladj.toNat +
      16 * s.madj.toNat + 256 * s.bchg.toNat + 512 * s.ill.toNat := by
  rw [State.statusWord, BitVec.toNat_setWidth_of_le (by decide)]
  simp only [append_toNat_eq_add, BitVec.toNat_ofBool, BitVec.ofNat_eq_ofNat, BitVec.toNat_ofNat, Nat.zero_mod]
  omega

/-! What a register reads as does not depend on the host's events and record. -/

@[simp] theorem State.readReg_setPending (s : State) (es : List Event) (r : Reg) :
    (s.setPending es).readReg r = s.readReg r := by
  cases r <;> rfl

@[simp] theorem State.readReg_returnWord (s : State) (v : Word) (r : Reg) :
    (s.returnWord v).readReg r = s.readReg r := by
  cases r <;> rfl

/-- Two reads of one register in a row return its value twice and change no register. -/
theorem run_two_reads {s : State} {rest : List Event} (r : Reg)
    (hp : s.pending = .access (.read (s.base + r.offset) 4) :: .access (.read (s.base + r.offset) 4) :: rest) :
    run 2 s = .next (((s.setPending rest).returnWord (s.readReg r)).returnWord (s.readReg r)) := by
  rw [run_succ_of_next 1 (step_read r hp), run_succ_of_next 0 (step_read r rfl), run_zero]
  simp only [State.readReg_setPending, State.readReg_returnWord]
  rfl

/-- Settles O31: a legal read returns `readReg` of its register and only records it. -/
theorem legalReadsReturnTheRegister : Obligations.LegalReadsReturnTheRegister := by
  refine ⟨fun s rest off hp => ?_, fun s rest off hoff hp => ?_⟩
  · refine ⟨?_, ?_, ?_, ?_, ?_, ?_, ?_⟩ <;> rintro rfl
    · exact step_read .cmd hp
    · exact step_read .opa hp
    · exact step_read .opb hp
    · exact step_read .opc hp
    · exact ⟨s.brt.setWidth 32, BitVec.toNat_setWidth_of_le (by decide), step_read .brt hp⟩
    · exact ⟨s.res.setWidth 32, BitVec.toNat_setWidth_of_le (by decide), step_read .res hp⟩
    · exact ⟨s.statusWord, s.statusWord_toNat, step_read .status hp⟩
  · have hreg : off < 0x1C ∧ off % 4 = 0 := by
      simp only [List.mem_cons, List.not_mem_nil, or_false] at hoff
      omega
    obtain ⟨r, rfl⟩ := exists_reg_offset hreg.1 hreg.2
    exact ⟨s.readReg r, run_two_reads r hp⟩

/-! ## Legal writes -/

theorem commandWrite_of_ok {w : Word} {i : Instr} (h : decodeWord w = .ok i) (s : State) :
    commandWrite w s = exec i s := by
  rw [commandWrite, h]

theorem commandWrite_of_error {w : Word} {e : NotACommand} (h : decodeWord w = .error e) (s : State) :
    commandWrite w s = .next s.setIll := by
  rw [commandWrite, h]

/-- Settles O32: a legal write is `writeReg` of its register. -/
theorem legalWritesDoTheirRow : Obligations.LegalWritesDoTheirRow := by
  intro s v rest off hp
  refine ⟨?_, ?_, ?_, ?_, ?_, ?_, ?_⟩ <;> rintro rfl
  · have hstep : step s = commandWrite v (s.setPending rest) := step_write .cmd hp
    exact ⟨fun i hi => hstep.trans (commandWrite_of_ok hi _),
      fun e he => hstep.trans (commandWrite_of_error he _)⟩
  · exact step_write .opa hp
  · exact step_write .opb hp
  · exact step_write .opc hp
  · exact ⟨lowByte v, lowByte_toNat v, step_write .brt hp⟩
  · exact step_write .res hp
  · exact step_write .status hp

end Sys2Proof.Machine
end

section
/-! SUPPORT. The decoder on words (30_encoding.md R60 to R63): which command a word stands for, and which words are
commands at all. -/

namespace Sys2Proof

/-! ## The opcode field -/

/-- The opcode map of 30_encoding.md R62 and the decoder's table of it are inverse. -/
theorem decodeOpcode_eq_ok_iff (op : BitVec 4) (i : Instr) : decodeOpcode op = .ok i ↔ op = opcode i := by
  revert op
  cases i <;> decide

theorem exists_decodeOpcode_eq_ok_iff (op : BitVec 4) : (∃ i, decodeOpcode op = .ok i) ↔ op.toNat ≤ 7 := by
  constructor
  · rintro ⟨i, hi⟩
    rw [(decodeOpcode_eq_ok_iff op i).1 hi]
    cases i <;> decide
  · intro hop
    unfold decodeOpcode
    generalize op.toNat = n at hop ⊢
    interval_cases n <;> exact ⟨_, rfl⟩

/-! ## The two fields of a word -/

theorem rsv_eq_zero_iff (w : Word) : w.extractLsb' 4 28 = 0 ↔ w.toNat / 2 ^ 4 = 0 := by
  have h := Machine.highBits_ne_zero w 4 28 rfl
  rw [← not_iff_not, ← ne_eq, ← bne_iff_ne, h, decide_eq_true_eq]
  omega

theorem op_toNat (w : Word) : (w.extractLsb' 0 4).toNat = w.toNat % 2 ^ 4 := by
  rw [BitVec.extractLsb'_toNat, Nat.shiftRight_zero]

theorem word_eq_append_iff (w : Word) (rsv : BitVec 28) (op : BitVec 4) :
    w = rsv ++ op ↔ w.extractLsb' 4 28 = rsv ∧ w.extractLsb' 0 4 = op := by
  constructor
  · rintro rfl
    exact ⟨BitVec.extractLsb'_append_eq_left, BitVec.extractLsb'_append_eq_right⟩
  · rintro ⟨rfl, rfl⟩
    rw [BitVec.extractLsb'_append_extractLsb'_eq_extractLsb' (Nat.zero_add 4).symm, BitVec.extractLsb'_eq_self]

/-! ## The decoder's answer to a word -/

/-- RSV is looked at first, then OP (30_encoding.md R67). -/
theorem decodeWord_eq_ok_iff_fields (w : Word) (i : Instr) :
    decodeWord w = .ok i ↔ w.extractLsb' 4 28 = 0 ∧ decodeOpcode (w.extractLsb' 0 4) = .ok i := by
  by_cases hrsv : w.extractLsb' 4 28 = 0
  · rw [decodeWord, if_pos hrsv, and_iff_right hrsv]
  · rw [decodeWord, if_neg hrsv]
    exact iff_of_false nofun (hrsv ·.1)

/-- A command's word is the only one that decodes to it. -/
theorem decodeWord_eq_ok_iff_eq_encode (w : Word) (i : Instr) : decodeWord w = .ok i ↔ w = encode i := by
  rw [decodeWord_eq_ok_iff_fields, decodeOpcode_eq_ok_iff, encode, word_eq_append_iff]

theorem exists_decodeWord_eq_ok_iff (w : Word) :
    (∃ i, decodeWord w = .ok i) ↔ w.toNat / 2 ^ 4 = 0 ∧ w.toNat % 2 ^ 4 ≤ 7 := by
  simp only [decodeWord_eq_ok_iff_fields, exists_and_left, exists_decodeOpcode_eq_ok_iff, rsv_eq_zero_iff, op_toNat]

theorem exists_decodeWord_eq_error_iff (w : Word) :
    (∃ e, decodeWord w = .error e) ↔ ¬∃ i, decodeWord w = .ok i := by
  cases decodeWord w <;> simp

/-- Settles O5: the decoder rejects RSV ≠ 0, and of the opcodes it answers those up to 7. -/
theorem legalWordsAreThoseOfR60 : Obligations.LegalWordsAreThoseOfR60 := fun w =>
  ⟨exists_decodeWord_eq_ok_iff w,
    (exists_decodeWord_eq_error_iff w).trans (not_congr (exists_decodeWord_eq_ok_iff w))⟩

/-! ## The rows of the opcode map -/

/-- The mask of every row keeps all 32 bits (30_encoding.md R62). -/
theorem decodeWord_eq_ok_iff_masked (w : Word) (i : Instr) :
    decodeWord w = .ok i ↔ w &&& 0xFFFFFFFF = encode i := by
  have hmask : w &&& 0xFFFFFFFF = w := BitVec.and_allOnes
  rw [hmask, decodeWord_eq_ok_iff_eq_encode]

/-- Settles O3: each row's word is the encoding of its command. -/
theorem opcodeWordsDecode : Obligations.OpcodeWordsDecode := fun w =>
  have row := decodeWord_eq_ok_iff_masked w
  ⟨row .nop, row .pack, row .unpackr, row .unpackg, row .unpackb, row .hsl, row .scale, row .scalech⟩

end Sys2Proof
end

section
/-! SUPPORT. What the command port does with an illegal word (40_command.md R71) and with NOP (R72), and the table of
the ADJ bits (R73). -/

namespace Sys2Proof.Machine

/-! ## Illegal command words -/

/-- A word that breaks either half of 30_encoding.md R60 is rejected. -/
theorem exists_decodeWord_error_of_illegal {w : Word} (hw : 8 ≤ w.toNat % 16 ∨ w.toNat / 16 ≠ 0) :
    ∃ e, decodeWord w = .error e := by
  rw [exists_decodeWord_eq_error_iff, exists_decodeWord_eq_ok_iff]
  omega

/-- A step on a write of an illegal word to CMD. -/
theorem step_illegal_command {s : State} {w : Word} {rest : List Event}
    (hp : s.pending = .access (.write s.base 4 w) :: rest) (hw : 8 ≤ w.toNat % 16 ∨ w.toNat / 16 ≠ 0) :
    step s = .next (s.setPending rest).setIll := by
  obtain ⟨e, he⟩ := exists_decodeWord_error_of_illegal hw
  have hstep : step s = commandWrite w (s.setPending rest) := step_write .cmd hp
  rw [hstep, commandWrite_of_error he]

/-- Settles O6: an illegal word is rejected, so the step only sets ILL; 0x11 and 0x8 are two such words. -/
theorem illegalCommandOnlySetsIll : Obligations.IllegalCommandOnlySetsIll := by
  refine ⟨fun s w rest => step_illegal_command, fun s rest hp => step_illegal_command hp (by decide),
    fun s rest hp hres _ => ?_⟩
  refine ⟨(s.setPending rest).setIll, step_illegal_command hp (by decide), ?_, State.setIll_ill _⟩
  rw [State.setIll_res, State.setPending_res, hres]

/-! ## NOP -/

/-- Writing NOP's "result" writes RES and the ADJ bits back as they are. -/
theorem setResult_nop (s : State) : s.setResult (resultOf .nop s) (adjOf .nop s) = s := rfl

/-- Settles O9: NOP writes back what RES and the ADJ bits hold. -/
theorem nopChangesNothing : Obligations.NopChangesNothing :=
  ⟨rfl, fun s => by rw [exec_eq, setResult_nop]⟩

/-! ## The ADJ bits -/

/-! MADJ in each row of the table of 40_command.md R73 where it can be 1. -/

theorem packAdj_madj_iff (s : State) :
    (packAdj s).madj = true ↔ 2 ^ 8 ≤ s.opa.toNat ∨ 2 ^ 8 ≤ s.opb.toNat ∨ 2 ^ 8 ≤ s.opc.toNat := by
  rw [packAdj, maskAdj, aboveChannel_eq, aboveChannel_eq, aboveChannel_eq, Bool.or_eq_true, Bool.or_eq_true,
    decide_eq_true_iff, decide_eq_true_iff, decide_eq_true_iff, or_assoc]

theorem colorAdj_madj_iff (s : State) : (colorAdj s).madj = true ↔ 2 ^ 24 ≤ s.opa.toNat := by
  rw [colorAdj, maskAdj, aboveColor_eq, decide_eq_true_iff]

theorem channelAdj_madj_iff (s : State) : (channelAdj s).madj = true ↔ 2 ^ 8 ≤ s.opa.toNat := by
  rw [channelAdj, maskAdj, aboveChannel_eq, decide_eq_true_iff]

/-- The MADJ column of the table of 40_command.md R73. -/
theorem adjOf_madj_iff {i : Instr} (hi : i ≠ .nop) (s : State) :
    (adjOf i s).madj = true ↔
      (i = .pack ∧ (2 ^ 8 ≤ s.opa.toNat ∨ 2 ^ 8 ≤ s.opb.toNat ∨ 2 ^ 8 ≤ s.opc.toNat)) ∨
      ((i = .unpackr ∨ i = .unpackg ∨ i = .unpackb ∨ i = .scale) ∧ 2 ^ 24 ≤ s.opa.toNat) ∨
      (i = .scalech ∧ 2 ^ 8 ≤ s.opa.toNat) := by
  cases i with
  | nop => exact absurd rfl hi
  | pack => simp [adjOf, packAdj_madj_iff]
  | unpackr | unpackg | unpackb | scale => simp [adjOf, colorAdj_madj_iff]
  | hsl => simp [adjOf, hslAdj]
  | scalech => simp [adjOf, channelAdj_madj_iff]

/-- Only HSL adjusts a hue, a saturation or a lightness. -/
theorem adjOf_of_ne_hsl {i : Instr} (hi : i ≠ .nop) (hhsl : i ≠ .hsl) (s : State) :
    (adjOf i s).hadj = false ∧ (adjOf i s).sadj = false ∧ (adjOf i s).ladj = false := by
  cases i with
  | nop => exact absurd rfl hi
  | hsl => exact absurd rfl hhsl
  | pack | unpackr | unpackg | unpackb | scale | scalech => exact ⟨rfl, rfl, rfl⟩

/-- The HADJ, SADJ and LADJ columns of the table of 40_command.md R73. -/
theorem adjOf_hsl_columns_iff {i : Instr} (hi : i ≠ .nop) (s : State) :
    ((adjOf i s).hadj = true ↔ i = .hsl ∧ (s.opa.toInt < 0 ∨ 359 < s.opa.toInt)) ∧
    ((adjOf i s).sadj = true ↔ i = .hsl ∧ (s.opb.toInt < 0 ∨ 99 < s.opb.toInt)) ∧
    ((adjOf i s).ladj = true ↔ i = .hsl ∧ (s.opc.toInt < 0 ∨ 99 < s.opc.toInt)) := by
  obtain rfl | hhsl := eq_or_ne i .hsl
  · simp only [true_and]
    exact ⟨outside_iff 359 _, outside_iff 99 _, outside_iff 99 _⟩
  · obtain ⟨hh, hs, hl⟩ := adjOf_of_ne_hsl hi hhsl s
    simp [hh, hs, hl, hhsl]

/-- Settles O15: a command writes the ADJ bits of `adjOf`, whose columns are the table's. -/
theorem adjBitsFollowTheTable : Obligations.AdjBitsFollowTheTable := by
  intro i s hi
  obtain ⟨hh, hs, hl⟩ := adjOf_hsl_columns_iff hi s
  exact ⟨_, exec_eq i s, hh, hs, hl, adjOf_madj_iff hi s⟩

end Sys2Proof.Machine
end

section
/-! SUPPORT. The packer and the unpacker (41_pack_unpack.md R80 to R84), and what a command's next state holds. -/

namespace Sys2Proof.Machine

/-! ## The state after a command -/

theorem exec_res {i : Instr} {s t : State} (h : exec i s = .next t) : t.res = resultOf i s := by
  rw [(exec_next_iff i s t).1 h, State.setResult_res]

theorem exec_madj {i : Instr} {s t : State} (h : exec i s = .next t) : t.madj = (adjOf i s).madj := by
  rw [(exec_next_iff i s t).1 h, State.setResult_madj]

theorem resultFrame_setResult (s : State) (r : Color) (a : Adj) : ResultFrame s (s.setResult r a) := rfl

/-! ## PACK -/

/-- The first form of 41_pack_unpack.md R80: each channel masked, then shifted into its place. -/
theorem pack_toNat_eq_or (r g b : Word) :
    (pack r g b).toNat =
      ((r.toNat &&& 0xFF) <<< 16) ||| ((g.toNat &&& 0xFF) <<< 8) ||| (b.toNat &&& 0xFF) := by
  have hmask (n : Nat) : n &&& 0xFF = n % 2 ^ 8 := Nat.and_two_pow_sub_one_eq_mod n 8
  rw [pack, BitVec.toNat_append, BitVec.toNat_append, lowByte_toNat, lowByte_toNat, lowByte_toNat,
    hmask, hmask, hmask, Nat.shiftLeft_or_distrib, ← Nat.shiftLeft_add]

/-! The channels of a packed Color. -/

theorem pack_toNat_red (r g b : Word) : (pack r g b).toNat / 2 ^ 16 = r.toNat % 2 ^ 8 := by
  rw [pack_toNat]
  omega

theorem pack_toNat_green (r g b : Word) : (pack r g b).toNat / 2 ^ 8 % 2 ^ 8 = g.toNat % 2 ^ 8 := by
  rw [pack_toNat]
  omega

theorem pack_toNat_blue (r g b : Word) : (pack r g b).toNat % 2 ^ 8 = b.toNat % 2 ^ 8 := by
  rw [pack_toNat]
  omega

/-! An operand with bits above its channel is masked, whatever the other two are (the corner cases of
41_pack_unpack.md R81). -/

theorem exec_pack_masks_opa {s t : State} {v : Word} (h : exec .pack s = .next t) (hs : s.opa = v)
    (hv : 2 ^ 8 ≤ v.toNat) : t.res.toNat / 2 ^ 16 = v.toNat % 2 ^ 8 ∧ t.madj = true := by
  subst hs
  rw [exec_res h, exec_madj h]
  exact ⟨pack_toNat_red _ _ _, (packAdj_madj_iff s).2 (.inl hv)⟩

theorem exec_pack_masks_opb {s t : State} {v : Word} (h : exec .pack s = .next t) (hs : s.opb = v)
    (hv : 2 ^ 8 ≤ v.toNat) : t.res.toNat / 2 ^ 8 % 2 ^ 8 = v.toNat % 2 ^ 8 ∧ t.madj = true := by
  subst hs
  rw [exec_res h, exec_madj h]
  exact ⟨pack_toNat_green _ _ _, (packAdj_madj_iff s).2 (.inr (.inl hv))⟩

theorem exec_pack_masks_opc {s t : State} {v : Word} (h : exec .pack s = .next t) (hs : s.opc = v)
    (hv : 2 ^ 8 ≤ v.toNat) : t.res.toNat % 2 ^ 8 = v.toNat % 2 ^ 8 ∧ t.madj = true := by
  subst hs
  rw [exec_res h, exec_madj h]
  exact ⟨pack_toNat_blue _ _ _, (packAdj_madj_iff s).2 (.inr (.inr hv))⟩

/-- PACK's RES and MADJ depend on the three operands alone. -/
theorem exec_pack_of_operands {s t : State} {r g b : Word} (h : exec .pack s = .next t) (ha : s.opa = r)
    (hb : s.opb = g) (hc : s.opc = b) :
    t.res = pack r g b ∧ t.madj = (aboveChannel r || aboveChannel g || aboveChannel b) := by
  subst ha hb hc
  exact ⟨exec_res h, exec_madj h⟩

theorem packAdj_madj_iff_div (s : State) :
    (packAdj s).madj = true ↔
      s.opa.toNat / 256 ≠ 0 ∨ s.opb.toNat / 256 ≠ 0 ∨ s.opc.toNat / 256 ≠ 0 := by
  rw [packAdj_madj_iff]
  omega

/-- Settles O10: PACK writes `pack` of the operands, each of whose channels is an operand's low byte. -/
theorem packResult : Obligations.PackResult := by
  refine ⟨rfl, fun s => ?_, fun s t h => ?_⟩
  · exact ⟨_, exec_eq .pack s, resultFrame_setResult _ _ _, pack_toNat_eq_or _ _ _, packAdj_madj_iff_div s,
      rfl, rfl, rfl, State.z_iff _⟩
  · refine ⟨fun ha hb hc => ?_,
      fun ha => exec_pack_masks_opa h ha (by decide), fun hb => exec_pack_masks_opb h hb (by decide),
      fun hc => exec_pack_masks_opc h hc (by decide),
      fun ha => exec_pack_masks_opa h ha (by decide), fun hb => exec_pack_masks_opb h hb (by decide),
      fun hc => exec_pack_masks_opc h hc (by decide),
      exec_pack_of_operands h, exec_pack_of_operands h⟩
    have hres : t.res = 0 := (exec_pack_of_operands h ha hb hc).1
    exact ⟨hres, t.z_iff.2 hres⟩

/-! ## UNPACKR, UNPACKG and UNPACKB -/

theorem colorAdj_madj_iff_div (s : State) : (colorAdj s).madj = true ↔ s.opa.toNat / 2 ^ 24 ≠ 0 := by
  rw [colorAdj_madj_iff]
  omega

theorem zextChannel_eq_zero_iff (ch : Byte) : zextChannel ch = 0 ↔ ch.toNat = 0 := by
  rw [← BitVec.toNat_inj, zextChannel_toNat]
  rfl

/-- What the three unpackers share: a command whose result is one channel and whose operand is a Color. -/
theorem exec_channel_of_color {i : Instr} {s : State} {ch : Byte} {n : Nat} (hres : resultOf i s = zextChannel ch)
    (hadj : adjOf i s = colorAdj s) (hn : ch.toNat = n) :
    ∃ t, exec i s = .next t ∧ ResultFrame s t ∧ t.res.toNat = n ∧
      (t.madj = true ↔ s.opa.toNat / 2 ^ 24 ≠ 0) ∧ t.hadj = false ∧ t.sadj = false ∧ t.ladj = false ∧
      (t.z = true ↔ n = 0) := by
  subst hn
  refine ⟨s.setResult (zextChannel ch) (colorAdj s), ?_, resultFrame_setResult _ _ _, zextChannel_toNat ch,
    colorAdj_madj_iff_div s, rfl, rfl, rfl, (State.z_iff _).trans (zextChannel_eq_zero_iff ch)⟩
  rw [exec_eq, hres, hadj]

/-- Settles O11: each unpacker writes its channel of OPA, zero-extended. -/
theorem unpackResults : Obligations.UnpackResults := by
  refine ⟨rfl, rfl, rfl, fun s => ⟨?_, ?_, ?_⟩, fun s t ha h => ?_, fun s t ha h => ?_, fun s t ha h => ?_⟩
  · exact exec_channel_of_color rfl rfl (redOf_toNat s.opa)
  · exact exec_channel_of_color rfl rfl (greenOf_toNat s.opa)
  · exact exec_channel_of_color rfl rfl (blueOf_toNat s.opa)
  all_goals
    rw [exec_res h, resultOf, ha]
    decide

end Sys2Proof.Machine
end

section
/-! SUPPORT. What HSL does to its operands before it converts (42_hsl.md R90 and R91): the hue counts modulo 360, and the
percentages count clamped to [0,99]. -/

namespace Sys2Proof.Machine

/-! ## The reduced hue -/

theorem dvd_sub_reduceHue (h : Int) : (360 : Int) ∣ h - reduceHue h := by
  rw [reduceHue_eq]
  exact Int.dvd_self_sub_emod

theorem reduceHue_of_range {h : Int} (hlo : 0 ≤ h) (hhi : h ≤ 359) : reduceHue h = h := by
  rw [reduceHue_eq]
  exact Int.emod_eq_of_lt hlo (Int.lt_add_one_of_le hhi)

theorem reduceHue_congr {h k : Int} (hk : (360 : Int) ∣ h - k) : reduceHue h = reduceHue k := by
  rw [reduceHue_eq, reduceHue_eq]
  exact Int.emod_eq_emod_iff_emod_sub_eq_zero.2 (Int.emod_eq_zero_of_dvd hk)

/-! ## The clamped percentages -/

theorem clampPercent_of_neg {a : Int} (ha : a < 0) : clampPercent a = 0 := by
  rw [clampPercent_eq]
  omega

theorem clampPercent_of_gt {a : Int} (ha : 99 < a) : clampPercent a = 99 := by
  rw [clampPercent_eq]
  omega

theorem clampPercent_of_range {a : Int} (hlo : 0 ≤ a) (hhi : a ≤ 99) : clampPercent a = a := by
  rw [clampPercent_eq]
  omega

/-- An operand that holds another's clamped value clamps to the same percentage. -/
theorem clampPercent_eq_of_eq_clamped {a b : Int} (hb : b = max 0 (min 99 a)) : clampPercent a = clampPercent b := by
  rw [← clampPercent_eq] at hb
  obtain ⟨hlo, hhi⟩ := clampPercent_range a
  rw [hb, clampPercent_of_range hlo hhi]

/-! ## The command -/

theorem hsl_congr {h k s s' l l' : Int} (hh : reduceHue h = reduceHue k) (hs : clampPercent s = clampPercent s')
    (hl : clampPercent l = clampPercent l') : hsl h s l = hsl k s' l' := by
  rw [hsl, hsl, hh, hs, hl]

/-- HSL's RES depends on its operands through the reduced hue and the clamped percentages alone. -/
theorem exec_hsl_res_congr {s u t v : State} (ht : exec .hsl s = .next t) (hv : exec .hsl u = .next v)
    (ha : reduceHue s.opa.toInt = reduceHue u.opa.toInt) (hb : clampPercent s.opb.toInt = clampPercent u.opb.toInt)
    (hc : clampPercent s.opc.toInt = clampPercent u.opc.toInt) : t.res = v.res := by
  rw [exec_res ht, exec_res hv]
  exact hsl_congr ha hb hc

theorem exec_hadj {i : Instr} {s t : State} (h : exec i s = .next t) : t.hadj = (adjOf i s).hadj := by
  rw [(exec_next_iff i s t).1 h, State.setResult_hadj]

theorem exec_hsl_hadj_iff {s t : State} (h : exec .hsl s = .next t) :
    t.hadj = true ↔ ¬(0 ≤ s.opa.toInt ∧ s.opa.toInt ≤ 359) := by
  obtain ⟨hcolumn, -, -⟩ := adjOf_hsl_columns_iff (i := .hsl) nofun s
  rw [exec_hadj h, hcolumn, eq_self, true_and]
  omega

/-- Settles O20: the reduced hue is the remainder by 360, and HSL's RES sees the hue through it alone. -/
theorem hueIsReducedModulo360 : Obligations.HueIsReducedModulo360 := by
  refine ⟨fun h => ?_, fun _ => reduceHue_of_range, rfl, fun s u t v ht hv ha hb hc => ?_,
    fun s t => exec_hsl_hadj_iff⟩
  · obtain ⟨hlo, hhi⟩ := reduceHue_range h
    exact ⟨hlo, hhi, dvd_sub_reduceHue h⟩
  · exact exec_hsl_res_congr ht hv (reduceHue_congr ha) (by rw [hb]) (by rw [hc])

/-- Settles O21: clamping a clamped percentage changes nothing, and HSL's RES sees the percentages clamped. -/
theorem percentagesAreClamped : Obligations.PercentagesAreClamped := by
  refine ⟨fun a => ⟨clampPercent_of_neg, clampPercent_of_gt, clampPercent_of_range⟩,
    fun s u t v ht hv ha hb hc => ?_⟩
  exact exec_hsl_res_congr ht hv (by rw [ha]) (clampPercent_eq_of_eq_clamped hb) (clampPercent_eq_of_eq_clamped hc)

end Sys2Proof.Machine
end

section
/-! SUPPORT. The scale unit (43_scale.md): the scaling function at each brightness, SCALE and SCALECH (R110, R111 and R114),
and the brightness write (R112 and R113). -/

namespace Sys2Proof.Machine

/-! ## The scaling function of one channel -/

theorem scale8_toNat_of_lt {br : Byte} (hbr : br.toNat < 255) (ch : Byte) :
    (scale8 ch br).toNat = ch.toNat * br.toNat / 2 ^ 8 := by
  rw [scale8_toNat, if_pos hbr]

/-- Brightness 255 keeps the channel: it does not stand for the factor 255/256 (43_scale.md R110). -/
theorem scale8_of_full {br : Byte} (hbr : br.toNat = 255) (ch : Byte) : scale8 ch br = ch := by
  rw [scale8, if_neg (Nat.not_lt.2 hbr.ge)]

/-- A channel times 0 or 1 is below 256, so nothing of it is left. -/
theorem scale8_of_le_one {br : Byte} (hbr : br.toNat ≤ 1) (ch : Byte) : scale8 ch br = 0 := by
  have hprod : ch.toNat * br.toNat < 2 ^ 8 :=
    calc ch.toNat * br.toNat ≤ ch.toNat * 1 := Nat.mul_le_mul_left _ hbr
      _ = ch.toNat := Nat.mul_one _
      _ < 2 ^ 8 := ch.isLt
  apply BitVec.eq_of_toNat_eq
  rw [scale8_toNat_of_lt (hbr.trans_lt (by decide)), Nat.div_eq_of_lt hprod]
  rfl

theorem scale8_zero_channel (br : Byte) : scale8 0 br = 0 := by
  apply BitVec.eq_of_toNat_eq
  rw [scale8_toNat]
  simp

/-! ## SCALE -/

theorem scaleColor_toNat_of_lt {br : Byte} (hbr : br.toNat < 255) (c : Word) :
    (scaleColor c br).toNat =
      c.toNat / 2 ^ 16 % 2 ^ 8 * br.toNat / 2 ^ 8 * 2 ^ 16 + c.toNat / 2 ^ 8 % 2 ^ 8 * br.toNat / 2 ^ 8 * 2 ^ 8 +
        c.toNat % 2 ^ 8 * br.toNat / 2 ^ 8 := by
  rw [scaleColor_toNat, scale8_toNat_of_lt hbr, scale8_toNat_of_lt hbr, scale8_toNat_of_lt hbr, redOf_toNat,
    greenOf_toNat, blueOf_toNat]

theorem scaleColor_toNat_of_full {br : Byte} (hbr : br.toNat = 255) (c : Word) :
    (scaleColor c br).toNat =
      c.toNat / 2 ^ 16 % 2 ^ 8 * 2 ^ 16 + c.toNat / 2 ^ 8 % 2 ^ 8 * 2 ^ 8 + c.toNat % 2 ^ 8 := by
  rw [scaleColor_toNat, scale8_of_full hbr, scale8_of_full hbr, scale8_of_full hbr, redOf_toNat,
    greenOf_toNat, blueOf_toNat]

/-- At full brightness the Color comes through as it is, without the bits above it. -/
theorem scaleColor_toNat_of_full_eq_mod {br : Byte} (hbr : br.toNat = 255) (c : Word) :
    (scaleColor c br).toNat = c.toNat % 2 ^ 24 := by
  rw [scaleColor_toNat_of_full hbr]
  omega

theorem scaleColor_of_le_one {br : Byte} (hbr : br.toNat ≤ 1) (c : Word) : scaleColor c br = 0 := by
  rw [scaleColor, scale8_of_le_one hbr, scale8_of_le_one hbr, scale8_of_le_one hbr]
  rfl

/-- RES is 0 exactly when each of its channels is. -/
theorem State.z_iff_channels (s : State) :
    s.z = true ↔ s.res.toNat / 2 ^ 16 = 0 ∧ s.res.toNat / 2 ^ 8 % 2 ^ 8 = 0 ∧ s.res.toNat % 2 ^ 8 = 0 := by
  have hzero : s.res = 0 ↔ s.res.toNat = 0 := BitVec.toNat_inj.symm
  rw [State.z_iff, hzero]
  omega

/-- SCALE's RES depends on the Color and the brightness alone. -/
theorem exec_scale_of_operands {s t : State} {c : Word} {br : Byte} (h : exec .scale s = .next t) (hc : s.opa = c)
    (hbr : s.brt = br) : t.res = scaleColor c br := by
  subst hc hbr
  exact exec_res h

/-- Settles O13: SCALE writes `scaleColor` of OPA and BRT, whose channels are OPA's, each by `scale8`. -/
theorem scaleResult : Obligations.ScaleResult := by
  refine ⟨rfl, fun s => ?_, fun s t h => ?_⟩
  · refine ⟨_, exec_eq .scale s, resultFrame_setResult _ _ _, ?_, colorAdj_madj_iff_div s, rfl, rfl, rfl,
      State.z_iff_channels _⟩
    rintro r g b rfl rfl rfl
    exact ⟨fun hbr => scaleColor_toNat_of_lt hbr s.opa, fun hbr => scaleColor_toNat_of_full hbr s.opa⟩
  · refine ⟨fun hbr => ?_, fun hbr => ?_, fun hbr => ?_, fun ha hbr => ?_, exec_scale_of_operands h⟩
    · rw [exec_scale_of_operands h rfl hbr, scaleColor_toNat_of_full_eq_mod rfl]
    · rw [exec_scale_of_operands h rfl hbr, scaleColor_of_le_one (by decide)]
    · rw [exec_scale_of_operands h rfl hbr, scaleColor_of_le_one (by decide)]
    · have hres : t.res = 0 := exec_scale_of_operands h ha hbr
      exact ⟨hres, t.z_iff.2 hres⟩

/-! ## SCALECH -/

theorem channelAdj_madj_iff_div (s : State) : (channelAdj s).madj = true ↔ s.opa.toNat / 2 ^ 8 ≠ 0 := by
  rw [channelAdj_madj_iff]
  omega

theorem zextChannel_scale8_toNat_of_lt {br : Byte} (hbr : br.toNat < 255) (v : Word) :
    (zextChannel (scale8 (lowByte v) br)).toNat = v.toNat % 2 ^ 8 * br.toNat / 2 ^ 8 := by
  rw [zextChannel_toNat, scale8_toNat_of_lt hbr, lowByte_toNat]

theorem zextChannel_scale8_toNat_of_full {br : Byte} (hbr : br.toNat = 255) (v : Word) :
    (zextChannel (scale8 (lowByte v) br)).toNat = v.toNat % 2 ^ 8 := by
  rw [zextChannel_toNat, scale8_of_full hbr, lowByte_toNat]

theorem exec_scalech_res {s t : State} (h : exec .scalech s = .next t) :
    t.res = zextChannel (scale8 (lowByte s.opa) s.brt) := exec_res h

theorem exec_scalech_res_of_brt_le_one {s t : State} (h : exec .scalech s = .next t) (hbr : s.brt.toNat ≤ 1) :
    t.res = 0 := by
  rw [exec_scalech_res h, scale8_of_le_one hbr]
  rfl

/-- An operand whose low byte is 0 scales to 0 at any brightness, whatever bits stand above. -/
theorem exec_scalech_res_of_lowByte_zero {s t : State} (h : exec .scalech s = .next t) (ha : lowByte s.opa = 0) :
    t.res = 0 := by
  rw [exec_scalech_res h, ha, scale8_zero_channel]
  rfl

/-- Settles O14: SCALECH writes `scale8` of OPA's low byte and BRT, zero-extended. -/
theorem scalechResult : Obligations.ScalechResult := by
  refine ⟨rfl, fun s => ?_, fun s t h => ⟨fun hbr => ?_, fun hbr => ?_, fun ha => ⟨?_, ?_⟩, fun ha hbr => ?_⟩⟩
  · exact ⟨_, exec_eq .scalech s, resultFrame_setResult _ _ _,
      fun hbr => zextChannel_scale8_toNat_of_lt hbr s.opa, fun hbr => zextChannel_scale8_toNat_of_full hbr s.opa,
      channelAdj_madj_iff_div s, rfl, rfl, rfl, State.z_iff _⟩
  · exact exec_scalech_res_of_brt_le_one h (by rw [hbr]; decide)
  · exact exec_scalech_res_of_brt_le_one h (by rw [hbr]; decide)
  · exact exec_scalech_res_of_lowByte_zero h (by rw [ha]; rfl)
  · rw [exec_madj h]
    exact (channelAdj_madj_iff s).2 (by rw [ha]; decide)
  · rw [exec_scalech_res h, ha, hbr]
    rfl

/-! ## The brightness write -/

theorem lowByte_eq_iff (v : Word) (b : Byte) : lowByte v = b ↔ v.toNat % 2 ^ 8 = b.toNat := by
  rw [← BitVec.toNat_inj, lowByte_toNat]

/-- Writing a brightness that BRT does not hold sets BCHG; `State.writeBrt_same` is the other case (43_scale.md R113). -/
theorem State.writeBrt_of_ne {s : State} {v : Word} (hne : lowByte v ≠ s.brt) :
    s.writeBrt v = { s with brt := lowByte v, bchg := true } := by
  rw [State.writeBrt, bne_iff_ne.2 hne, Bool.or_true]

/-- A step on a reset. -/
theorem step_reset {s : State} {c : ResetCause} {rest : List Event} (hp : s.pending = .reset c :: rest) :
    step s = .next (s.setPending rest).resetRegisters := by
  rw [step_cons hp, runEvent]

/-- `step_bchg_cleared` the other way round: a reset and a write of STATUS with bit 8 set do clear BCHG. -/
theorem step_bchg_of_reset_or_status {s t : State} {e : Event} {rest : List Event} (hp : s.pending = e :: rest)
    (h : step s = .next t) (he : e.IsReset ∨ ∃ v, e.IsWrite s.base 0x18 v ∧ v.getLsbD 8 = true) :
    t.bchg = false := by
  rcases he with ⟨c, rfl⟩ | ⟨v, rfl, hv⟩
  · rw [step_reset hp] at h
    injection h with h
    rw [← h, State.resetRegisters_bchg]
    rfl
  · have hstep : step s = .next ((s.setPending rest).clearSticky v) := step_write .status hp
    rw [hstep] at h
    injection h with h
    rw [← h, State.clearSticky_bchg, hv, Bool.not_true, Bool.and_false]

/-- Settles O29: a brightness write is `writeBrt`, whose two cases are whether BRT changes, and only a reset or a write
of STATUS clears BCHG. -/
theorem brightnessWriteSetsBchgOnChange : Obligations.BrightnessWriteSetsBchgOnChange := by
  refine ⟨fun s v rest hp => ?_, fun s t e rest hp h hs =>
    ⟨step_bchg_cleared hp h hs, step_bchg_of_reset_or_status hp h⟩⟩
  have hstep : step s = .next ((s.setPending rest).writeBrt v) := step_write .brt hp
  rw [hstep]
  refine ⟨fun hne => ⟨lowByte v, lowByte_toNat v, ?_⟩, fun heq => ?_⟩
  · have hchange : lowByte v ≠ (s.setPending rest).brt := fun hb => hne ((lowByte_eq_iff v s.brt).1 hb)
    rw [State.writeBrt_of_ne hchange]
    rfl
  · have hsame : lowByte v = (s.setPending rest).brt := (lowByte_eq_iff v s.brt).2 heq
    rw [State.writeBrt_same _ v hsame]
    rfl

end Sys2Proof.Machine
end

section
/-! SUPPORT. The reset state (70_reset_and_hazards.md R130). -/

namespace Sys2Proof.Machine

/-- Z is not stored: it is 1 after reset because RES is 0. -/
theorem State.reset_z : State.reset.z = true := (State.z_iff _).2 rfl

/-- Of the STATUS word's flags only Z is 1 after reset. -/
theorem State.reset_statusWord : State.reset.statusWord = 0x00000001 := by
  apply BitVec.eq_of_toNat_eq
  rw [State.statusWord_toNat, State.reset_z]
  rfl

/-- Settles O1: each register's value is the one `State.reset` gives it; Z and STATUS follow from RES and the flags. -/
theorem resetStateHoldsTheSpecValues : Obligations.ResetStateHoldsTheSpecValues :=
  ⟨rfl, rfl, rfl, rfl, rfl, rfl, rfl, rfl, rfl, rfl, rfl, State.reset_z, State.reset_statusWord⟩

end Sys2Proof.Machine
end

section
/-! SUPPORT. The decoder on bytes (30_encoding.md R64, 20_memory.md R42), and the step on a command word. -/

namespace Sys2Proof

/-! ## The byte lanes -/

/-- The word made of four bytes has them as its lanes, in the same order. -/
theorem lanes_wordOfLanes (b0 b1 b2 b3 : Byte) : lanes (wordOfLanes b0 b1 b2 b3) = [b0, b1, b2, b3] := by
  have h0 := b0.isLt
  have h1 := b1.isLt
  have h2 := b2.isLt
  have h3 := b3.isLt
  simp only [lanes, List.cons.injEq, and_true, ← BitVec.toNat_inj, lane_toNat, wordOfLanes_toNat]
  omega

/-- Settles O8: a lane is a byte of the word's number, and the four lanes of a word made of bytes are those bytes. -/
theorem byteLanesAreLittleEndian : Obligations.ByteLanesAreLittleEndian :=
  ⟨fun v k _ => lane_toNat v k, lanes_wordOfLanes⟩

/-! ## Lists of bytes -/

/-- A list of bytes that is a command is the lanes of a word that is one. -/
theorem exists_word_of_decodeBytes_eq_ok {bs : List Byte} {i : Instr} (h : decodeBytes bs = .ok i) :
    ∃ w, bs = lanes w ∧ decodeWord w = .ok i := by
  unfold decodeBytes at h
  split at h
  · next b0 b1 b2 b3 => exact ⟨wordOfLanes b0 b1 b2 b3, (lanes_wordOfLanes b0 b1 b2 b3).symm, h⟩
  · exact absurd h nofun

theorem decodeBytes_eq_ok_iff_eq_encodeBytes (bs : List Byte) (i : Instr) :
    decodeBytes bs = .ok i ↔ bs = encodeBytes i := by
  constructor
  · intro h
    obtain ⟨w, rfl, hw⟩ := exists_word_of_decodeBytes_eq_ok h
    rw [(decodeWord_eq_ok_iff_eq_encode w i).1 hw, encodeBytes]
  · rintro rfl
    rw [encodeBytes, decodeBytes_lanes, decodeWord_eq_ok_iff_eq_encode]

/-- Settles O4: a word decodes to a command only if both its fields are the command's, and a list of bytes only if it is
the lanes of such a word. -/
theorem decodeAndEncodeAgree : Obligations.DecodeAndEncodeAgree :=
  ⟨decodeWord_eq_ok_iff_eq_encode, decodeBytes_eq_ok_iff_eq_encodeBytes⟩

/-! ## The table's words -/

theorem decodeTableWord_eq_some_iff (nbits w : Nat) (i : Instr) :
    decodeTableWord nbits w = some i ↔ decodeWord (BitVec.ofNat 32 (w % 2 ^ nbits)) = .ok i := by
  rw [decodeTableWord, decodeBytes_lanes]
  cases decodeWord (BitVec.ofNat 32 (w % 2 ^ nbits)) <;> simp [Except.toOption]

end Sys2Proof

namespace Sys2Proof.Machine

/-- A step on a write of a legal word to CMD. -/
theorem step_command {s : State} {w : Word} {i : Instr} {rest : List Event}
    (hp : s.pending = .access (.write s.base 4 w) :: rest) (hw : decodeWord w = .ok i) :
    step s = exec i (s.setPending rest) := by
  have hstep : step s = commandWrite w (s.setPending rest) := step_write .cmd hp
  rw [hstep, commandWrite_of_ok hw]

/-- Settles O7: the step's write to CMD decodes the word; `withFetchWord` is one such write before the others. -/
theorem stepRunsTheDecodedCommand : Obligations.StepRunsTheDecodedCommand := by
  refine ⟨fun s w i rest hp hw => ?_, fun s w i hw => ?_⟩
  · rw [decodeBytes_lanes] at hw
    exact step_command hp hw
  · rw [decodeTableWord_eq_some_iff] at hw
    have hstep : step (s.withFetchWord 32 w) = exec i ((s.withFetchWord 32 w).setPending s.pending) :=
      step_command rfl hw
    exact hstep

end Sys2Proof.Machine
end

section
/-! SUPPORT. What every command does and depends on (40_command.md R70, R74 and R75, 20_memory.md R47), and the round
trips of the packer and the unpacker (41_pack_unpack.md R85). -/

namespace Sys2Proof.Machine

/-! ## Every command -/

/-- Settles O16: a command answers the old state with a new result, which is RES and the ADJ bits. -/
theorem commandsWriteOnlyResultAndAdj : Obligations.CommandsWriteOnlyResultAndAdj :=
  fun i s => ⟨_, exec_eq i s, rfl, rfl, rfl, rfl, rfl, rfl, rfl, rfl, rfl⟩

theorem exec_adj {i : Instr} {s t : State} (h : exec i s = .next t) : t.adj = adjOf i s := by
  rw [(exec_next_iff i s t).1 h]
  rfl

/-- Settles O17: RES and the ADJ bits are `resultOf` and `adjOf`, functions of the operands and the brightness. -/
theorem commandsReadOnlyOperandsAndBrightness : Obligations.CommandsReadOnlyOperandsAndBrightness := by
  intro i s u t v hi ha hb hc hbrt ht hv
  rw [exec_res ht, exec_res hv, exec_adj ht, exec_adj hv]
  exact ⟨resultOf_congr i s u hi ha hb hc hbrt, adjOf_congr i s u hi ha hb hc⟩

/-- Writing a result a second time is writing it once. -/
theorem State.setResult_idem (s : State) (r : Color) (a : Adj) :
    (s.setResult r a).setResult r a = s.setResult r a := rfl

/-- A command leaves what it reads, so it finds the same operands again. -/
theorem exec_idem {i : Instr} {s t : State} (h : exec i s = .next t) : exec i t = .next t := by
  obtain rfl | hi := eq_or_ne i .nop
  · rfl
  · obtain rfl := (exec_next_iff i s t).1 h
    have hres : resultOf i (s.setResult (resultOf i s) (adjOf i s)) = resultOf i s :=
      resultOf_congr i _ s hi rfl rfl rfl rfl
    have hadj : adjOf i (s.setResult (resultOf i s) (adjOf i s)) = adjOf i s := adjOf_congr i _ s hi rfl rfl rfl
    rw [exec_eq, hres, hadj, State.setResult_idem]

/-- Settles O18: no command writes what a command reads. -/
theorem repeatedCommandChangesNothing : Obligations.RepeatedCommandChangesNothing :=
  fun _ _ _ => exec_idem

/-! ## PACK and the UNPACK commands -/

/-- UNPACKing a Color that fills no bit above it discards nothing. -/
theorem colorAdj_madj_of_lt {s : State} (h : s.opa.toNat < 2 ^ 24) : (colorAdj s).madj = false := by
  rw [← Bool.not_eq_true, colorAdj_madj_iff]
  exact Nat.not_le.2 h

/-- PACKing three channels that fill no bit above them discards nothing. -/
theorem packAdj_madj_of_lt {s : State} (ha : s.opa.toNat < 2 ^ 8) (hb : s.opb.toNat < 2 ^ 8)
    (hc : s.opc.toNat < 2 ^ 8) : (packAdj s).madj = false := by
  rw [← Bool.not_eq_true, packAdj_madj_iff]
  omega

theorem exec_unpackr_toNat {s t : State} (h : exec .unpackr s = .next t) :
    t.res.toNat = s.opa.toNat / 2 ^ 16 % 2 ^ 8 ∧ t.madj = (colorAdj s).madj := by
  rw [exec_res h, exec_madj h, resultOf, zextChannel_toNat, redOf_toNat]
  exact ⟨rfl, rfl⟩

theorem exec_unpackg_toNat {s t : State} (h : exec .unpackg s = .next t) :
    t.res.toNat = s.opa.toNat / 2 ^ 8 % 2 ^ 8 ∧ t.madj = (colorAdj s).madj := by
  rw [exec_res h, exec_madj h, resultOf, zextChannel_toNat, greenOf_toNat]
  exact ⟨rfl, rfl⟩

theorem exec_unpackb_toNat {s t : State} (h : exec .unpackb s = .next t) :
    t.res.toNat = s.opa.toNat % 2 ^ 8 ∧ t.madj = (colorAdj s).madj := by
  rw [exec_res h, exec_madj h, resultOf, zextChannel_toNat, blueOf_toNat]
  exact ⟨rfl, rfl⟩

theorem exec_pack_toNat {s t : State} (h : exec .pack s = .next t) :
    t.res.toNat = s.opa.toNat % 2 ^ 8 * 2 ^ 16 + s.opb.toNat % 2 ^ 8 * 2 ^ 8 + s.opc.toNat % 2 ^ 8 ∧
      t.madj = (packAdj s).madj := by
  rw [exec_res h, exec_madj h, resultOf, pack_toNat]
  exact ⟨rfl, rfl⟩

/-- Settles O19: the channels of a packed Color are the operands' low bytes, and a Color is made of its channels. -/
theorem packAndUnpackRoundTrip : Obligations.PackAndUnpackRoundTrip := by
  refine ⟨fun s t u r g b hpack hu hr hg hb => ?_, fun s r g b u t hr hg hb ha hbu hc hpack => ?_⟩
  · obtain ⟨hres, -⟩ := exec_pack_toNat hpack
    obtain ⟨hrres, hrmadj⟩ := exec_unpackr_toNat hr
    obtain ⟨hgres, hgmadj⟩ := exec_unpackg_toNat hg
    obtain ⟨hbres, hbmadj⟩ := exec_unpackb_toNat hb
    have hmadj : (colorAdj u).madj = false := colorAdj_madj_of_lt (by omega)
    exact ⟨by omega, by omega, by omega, hrmadj.trans hmadj, hgmadj.trans hmadj, hbmadj.trans hmadj⟩
  · obtain ⟨hrres, -⟩ := exec_unpackr_toNat hr
    obtain ⟨hgres, -⟩ := exec_unpackg_toNat hg
    obtain ⟨hbres, -⟩ := exec_unpackb_toNat hb
    obtain ⟨hres, hmadj⟩ := exec_pack_toNat hpack
    exact ⟨by omega, hmadj.trans (packAdj_madj_of_lt (by omega) (by omega) (by omega))⟩

end Sys2Proof.Machine
end

section
/-! SUPPORT. What is not the unit's: the base address, the host's events to come and the values it has read. No register
depends on them (10_state.md section 5), one step takes one event (20_memory.md R48 and R49), and a run over admitted
events completes (70_reset_and_hazards.md section 4). -/

namespace Sys2Proof.Machine

/-! ## The three fields that are not the unit's -/

/-- `s` with another base address, other events to come and other values read. -/
def State.rehost (s : State) (base : Nat) (es : List Event) (ws : List Word) : State :=
  { s with base := base, pending := es, returned := ws }

@[simp] theorem readReg_rehost (s : State) (base : Nat) (es : List Event) (ws : List Word) (r : Reg) :
    (s.rehost base es ws).readReg r = s.readReg r := by
  cases r <;> rfl

theorem resultOf_rehost (i : Instr) (s : State) (base : Nat) (es : List Event) (ws : List Word) :
    resultOf i (s.rehost base es ws) = resultOf i s := by
  cases i <;> rfl

theorem adjOf_rehost (i : Instr) (s : State) (base : Nat) (es : List Event) (ws : List Word) :
    adjOf i (s.rehost base es ws) = adjOf i s := by
  cases i <;> rfl

theorem exec_rehost {i : Instr} {s t : State} (h : exec i s = .next t) (base : Nat) (es : List Event)
    (ws : List Word) : exec i (s.rehost base es ws) = .next (t.rehost base es ws) := by
  rw [exec_next_iff] at h ⊢
  rw [resultOf_rehost, adjOf_rehost, h]
  rfl

/-- What a legal write does to the registers does not depend on the fields that are not the unit's, which it keeps. -/
theorem writeReg_rehost {r : Reg} {v : Word} {s t : State} (h : writeReg r v s = .next t) (base : Nat)
    (es : List Event) (ws : List Word) : writeReg r v (s.rehost base es ws) = .next (t.rehost base es ws) := by
  cases r with
  | cmd =>
    simp only [writeReg, commandWrite] at h ⊢
    split at h
    · exact exec_rehost h base es ws
    · cases h
      rfl
  | opa | opb | opc | brt | res | status =>
    cases h
    rfl

/-- A legal write keeps them, since it is the same write with them as they are. -/
theorem writeReg_hostSide {r : Reg} {v : Word} {s t : State} (h : writeReg r v s = .next t) :
    t.base = s.base ∧ t.pending = s.pending ∧ t.returned = s.returned := by
  have hsame : writeReg r v s = .next (t.rehost s.base s.pending s.returned) :=
    writeReg_rehost h s.base s.pending s.returned
  have ht : t = t.rehost s.base s.pending s.returned := by injection h.symm.trans hsame
  exact ⟨(congrArg State.base ht :), (congrArg State.pending ht :), (congrArg State.returned ht :)⟩

/-! ## One step, one event -/

theorem step_base_pending {s t : State} {e : Event} {rest : List Event} (hp : s.pending = e :: rest)
    (h : step s = .next t) : t.base = s.base ∧ t.pending = rest := by
  rcases step_cons_cases hp h with ⟨r, -, rfl⟩ | ⟨_, _, -, -, -, rfl⟩ | ⟨r, v, -, hw⟩ |
    ⟨_, _, _, -, -, -, rfl⟩ | ⟨c, -, rfl⟩
  · exact ⟨rfl, rfl⟩
  · exact ⟨rfl, rfl⟩
  · obtain ⟨hbase, hpending, -⟩ := writeReg_hostSide hw
    exact ⟨hbase, hpending⟩
  · exact ⟨rfl, rfl⟩
  · exact ⟨rfl, rfl⟩

/-- What a step hands to the host, at once: a value on a read and nothing on any other event. -/
theorem step_returned {s t : State} {e : Event} {rest : List Event} (hp : s.pending = e :: rest)
    (h : step s = .next t) :
    (∃ addr width, e = .access (.read addr width) ∧ ∃ v, t.returned = v :: s.returned) ∨
      ((∀ addr width, e ≠ .access (.read addr width)) ∧ t.returned = s.returned) := by
  rcases step_cons_cases hp h with ⟨r, rfl, rfl⟩ | ⟨addr, width, rfl, -, -, rfl⟩ | ⟨r, v, rfl, hw⟩ |
    ⟨_, _, _, rfl, -, -, rfl⟩ | ⟨c, rfl, rfl⟩
  · exact .inl ⟨_, _, rfl, _, rfl⟩
  · exact .inl ⟨addr, width, rfl, _, rfl⟩
  · obtain ⟨-, -, hreturned⟩ := writeReg_hostSide hw
    exact .inr ⟨nofun, hreturned⟩
  · exact .inr ⟨nofun, rfl⟩
  · exact .inr ⟨nofun, rfl⟩

/-- Settles O45: of what is not the unit's, an event changes at most the record of what was read. -/
theorem stepTakesOneEvent : Obligations.StepTakesOneEvent := by
  intro s t e rest hp h
  obtain ⟨hbase, hpending⟩ := step_base_pending hp h
  rcases step_returned hp h with ⟨addr, width, he, hv⟩ | ⟨hne, hreturned⟩
  · exact ⟨hbase, hpending, fun _ => hv, fun hne => absurd he (hne addr width)⟩
  · exact ⟨hbase, hpending, fun ⟨addr, width, he⟩ => absurd he (hne addr width), fun _ => hreturned⟩

/-! ## Which events are answered -/

theorem exists_writeReg_next (r : Reg) (v : Word) (s : State) : ∃ t, writeReg r v s = .next t := by
  cases r with
  | cmd =>
    simp only [writeReg, commandWrite]
    split
    · exact ⟨_, exec_eq _ s⟩
    · exact ⟨_, rfl⟩
  | opa | opb | opc | brt | res | status => exact ⟨_, rfl⟩

theorem exists_hostRead_next {s : State} {addr : Nat} (hw : s.inWindow addr = true) (width : Nat) :
    ∃ t, hostRead addr width s = .next t := by
  rw [hostRead, if_pos hw]
  split <;> exact ⟨_, rfl⟩

theorem exists_hostWrite_next {s : State} {addr : Nat} (hw : s.inWindow addr = true) (width : Nat) (v : Word) :
    ∃ t, hostWrite addr width v s = .next t := by
  rw [hostWrite, if_pos hw]
  split
  · next r _ => exact exists_writeReg_next r v s
  · exact ⟨_, rfl⟩

theorem exists_runEvent_next {s : State} {e : Event} (he : e.admitted s.base = true) : ∃ t, runEvent e s = .next t := by
  rcases e with (⟨addr, width⟩ | ⟨addr, width, v⟩) | c | a
  · exact exists_hostRead_next he width
  · exact exists_hostWrite_next he width v
  · exact ⟨_, rfl⟩
  · exact absurd he nofun

theorem exists_step_next {s : State} {e : Event} {rest : List Event} (hp : s.pending = e :: rest)
    (he : e.admitted s.base = true) : ∃ t, step s = .next t := by
  rw [step_cons hp]
  exact exists_runEvent_next he

theorem State.inWindow_eq_false {s : State} {addr : Nat} (h : addr < s.base ∨ s.base + 0x20 ≤ addr) :
    s.inWindow addr = false := by
  rw [← Bool.not_eq_true, State.inWindow_iff]
  omega

theorem hostRead_outside {s : State} {addr : Nat} (hw : s.inWindow addr = false) (width : Nat) :
    hostRead addr width s = .refused .outsideWindow := by
  rw [hostRead, hw, if_neg Bool.false_ne_true]

theorem hostWrite_outside {s : State} {addr : Nat} (hw : s.inWindow addr = false) (width : Nat) (v : Word) :
    hostWrite addr width v s = .refused .outsideWindow := by
  rw [hostWrite, hw, if_neg Bool.false_ne_true]

/-- Settles O46: there is no fault; an access is answered in the window and refused outside it, a reset is answered, and
another master is refused. -/
theorem admittedEventsCompleteAndOthersAreRefused : Obligations.AdmittedEventsCompleteAndOthersAreRefused := by
  refine ⟨nofun, fun s e rest hp => ⟨exists_step_next hp, fun addr width v he hout => ?_, fun a he => ?_⟩⟩
  · have hw : (s.setPending rest).inWindow addr = false := State.inWindow_eq_false hout
    rw [step_cons hp]
    rcases he with rfl | rfl
    · exact hostRead_outside hw width
    · exact hostWrite_outside hw width v
  · rw [step_cons hp, he, runEvent]

/-! ## Runs -/

/-- One step from a safe state: it takes one event if there is one, and the state after it is safe. -/
theorem State.Safe.step {s : State} (hs : s.Safe) :
    ∃ t, Machine.step s = .next t ∧ t.pending = s.pending.drop 1 ∧ t.Safe := by
  cases hp : s.pending with
  | nil => exact ⟨s, step_nil hp, hp, hs⟩
  | cons e rest =>
    rw [State.Safe, hp, List.forall_mem_cons] at hs
    obtain ⟨he, hrest⟩ := hs
    obtain ⟨t, ht⟩ := exists_step_next hp he
    obtain ⟨hbase, hpending⟩ := step_base_pending hp ht
    refine ⟨t, ht, hpending, ?_⟩
    rw [State.Safe, hbase, hpending]
    exact hrest

/-- Settles O47, by induction on the number of steps: a step answers, takes one event off, and leaves a safe state. -/
theorem safeRunsComplete : Obligations.SafeRunsComplete := by
  intro n
  induction n with
  | zero => exact fun s hs => ⟨s, run_zero s, rfl, hs⟩
  | succ n ih =>
    intro s hs
    obtain ⟨t, hstep, htail, ht⟩ := hs.step
    obtain ⟨u, hrun, hdrop, hu⟩ := ih t ht
    refine ⟨u, (run_succ_of_next n hstep).trans hrun, ?_, hu⟩
    rw [hdrop, htail, List.drop_drop, Nat.add_comm]

/-- Settles O54: with no event to come a step is the idle step. -/
theorem idleUnitHoldsItsState : Obligations.IdleUnitHoldsItsState := fun _ => step_nil


end Sys2Proof.Machine
end

section
/-! SUPPORT. Which events change a register (10_state.md section 3), and the invariant of the machine. -/

namespace Sys2Proof.Machine

/-! ## BRT -/

theorem writeReg_brt_cases {r : Reg} {v : Word} {s t : State} (h : writeReg r v s = .next t) :
    t.brt = s.brt ∨ (r = .brt ∧ t = s.writeBrt v) := by
  rcases writeReg_cases h with ⟨-, i, -, hx⟩ | ⟨-, -, rfl⟩ | ⟨-, rfl⟩ | ⟨-, rfl⟩ | ⟨-, rfl⟩ | hbrt | ⟨-, rfl⟩ | ⟨-, rfl⟩
  · rw [(exec_next_iff i s t).1 hx]
    exact .inl rfl
  · exact .inl rfl
  · exact .inl rfl
  · exact .inl rfl
  · exact .inl rfl
  · exact .inr hbrt
  · exact .inl rfl
  · exact .inl rfl

/-- A brightness write that changes BRT sets BCHG (43_scale.md R113). -/
theorem State.writeBrt_bchg_of_change {s : State} {v : Word} (h : (s.writeBrt v).brt ≠ s.brt) :
    (s.writeBrt v).bchg = true := by
  rw [State.writeBrt_bchg, Bool.or_eq_true, bne_iff_ne]
  exact .inr h

/-- Settles O41: of the legal writes `writeBrt` alone changes BRT, and of the other events a reset. -/
theorem onlyBrightnessWritesChangeBrt : Obligations.OnlyBrightnessWritesChangeBrt := by
  intro s t h hne
  rcases step_next_cases h with ⟨-, rfl⟩ | ⟨e, rest, hp⟩
  · exact absurd rfl hne
  refine ⟨e, rest, hp, ?_⟩
  rcases step_cons_cases hp h with ⟨r, -, rfl⟩ | ⟨_, _, -, -, -, rfl⟩ | ⟨r, v, he, hw⟩ |
    ⟨_, _, _, -, -, -, rfl⟩ | ⟨c, he, rfl⟩
  · exact absurd rfl hne
  · exact absurd rfl hne
  · rcases writeReg_brt_cases hw with hkeep | ⟨rfl, rfl⟩
    · exact absurd hkeep hne
    · exact .inl ⟨v, he, lowByte_toNat v, State.writeBrt_bchg_of_change hne⟩
  · exact absurd rfl hne
  · exact .inr ⟨⟨c, he⟩, rfl⟩

/-! ## The operand registers -/

/-- The three operand registers (10_state.md R20). -/
def Reg.IsOperand (r : Reg) : Prop := r = .opa ∨ r = .opb ∨ r = .opc

theorem Reg.exists_operand_offset {off : Nat} (h : off ∈ [0x04, 0x08, 0x0C]) :
    ∃ r : Reg, r.IsOperand ∧ off = r.offset := by
  simp only [List.mem_cons, List.not_mem_nil, or_false] at h
  rcases h with rfl | rfl | rfl
  exacts [⟨.opa, .inl rfl, rfl⟩, ⟨.opb, .inr (.inl rfl), rfl⟩, ⟨.opc, .inr (.inr rfl), rfl⟩]

/-- A state with the operands of another reads the same in each operand register. -/
theorem Reg.IsOperand.readReg_congr {r : Reg} (hr : r.IsOperand) {s t : State} (ha : t.opa = s.opa) (hb : t.opb = s.opb)
    (hc : t.opc = s.opc) : t.readReg r = s.readReg r := by
  rcases hr with rfl | rfl | rfl
  exacts [ha, hb, hc]

/-! A write of one operand register, as a read of any register sees it. -/

theorem readReg_setOpa_cases (s : State) (v : Word) (r : Reg) :
    (s.setOpa v).readReg r = s.readReg r ∨ (.opa = r ∧ (s.setOpa v).readReg r = v) := by
  cases r with
  | opa => exact .inr ⟨rfl, rfl⟩
  | cmd | opb | opc | brt | res | status => exact .inl rfl

theorem readReg_setOpb_cases (s : State) (v : Word) (r : Reg) :
    (s.setOpb v).readReg r = s.readReg r ∨ (.opb = r ∧ (s.setOpb v).readReg r = v) := by
  cases r with
  | opb => exact .inr ⟨rfl, rfl⟩
  | cmd | opa | opc | brt | res | status => exact .inl rfl

theorem readReg_setOpc_cases (s : State) (v : Word) (r : Reg) :
    (s.setOpc v).readReg r = s.readReg r ∨ (.opc = r ∧ (s.setOpc v).readReg r = v) := by
  cases r with
  | opc => exact .inr ⟨rfl, rfl⟩
  | cmd | opa | opb | brt | res | status => exact .inl rfl

/-- A legal write leaves an operand as it is or is a write of it. -/
theorem writeReg_operand_cases {r' : Reg} (hr' : r'.IsOperand) {r : Reg} {v : Word} {s t : State}
    (h : writeReg r v s = .next t) : t.readReg r' = s.readReg r' ∨ (r = r' ∧ t.readReg r' = v) := by
  rcases writeReg_cases h with ⟨-, i, -, hx⟩ | ⟨-, -, rfl⟩ | ⟨rfl, rfl⟩ | ⟨rfl, rfl⟩ | ⟨rfl, rfl⟩ | ⟨-, rfl⟩ |
    ⟨-, rfl⟩ | ⟨-, rfl⟩
  · rw [(exec_next_iff i s t).1 hx]
    exact .inl (hr'.readReg_congr rfl rfl rfl)
  · exact .inl (hr'.readReg_congr rfl rfl rfl)
  · exact readReg_setOpa_cases s v r'
  · exact readReg_setOpb_cases s v r'
  · exact readReg_setOpc_cases s v r'
  · exact .inl (hr'.readReg_congr rfl rfl rfl)
  · exact .inl rfl
  · exact .inl (hr'.readReg_congr rfl rfl rfl)

theorem readReg_operand_resetRegisters {r : Reg} (hr : r.IsOperand) (s : State) : s.resetRegisters.readReg r = 0 := by
  rcases hr with rfl | rfl | rfl <;> rfl

/-- A step that changes an operand takes a write of it or a reset. -/
theorem step_operand_changed {r : Reg} (hr : r.IsOperand) {s t : State} (h : step s = .next t)
    (hne : t.readReg r ≠ s.readReg r) :
    ∃ e rest, s.pending = e :: rest ∧
      (e.IsWrite s.base r.offset (t.readReg r) ∨ (e.IsReset ∧ t.readReg r = 0)) := by
  rcases step_next_cases h with ⟨-, rfl⟩ | ⟨e, rest, hp⟩
  · exact absurd rfl hne
  refine ⟨e, rest, hp, ?_⟩
  rcases step_cons_cases hp h with ⟨_, -, rfl⟩ | ⟨_, _, -, -, -, rfl⟩ | ⟨_, v, he, hw⟩ |
    ⟨_, _, _, -, -, -, rfl⟩ | ⟨c, he, rfl⟩
  · exact (hne (hr.readReg_congr rfl rfl rfl)).elim
  · exact (hne (hr.readReg_congr rfl rfl rfl)).elim
  · rcases writeReg_operand_cases hr hw with hkeep | ⟨rfl, hv⟩
    · exact absurd (hkeep.trans (s.readReg_setPending rest r)) hne
    · exact .inl (hv ▸ he)
  · exact (hne (hr.readReg_congr rfl rfl rfl)).elim
  · exact .inr ⟨⟨c, he⟩, readReg_operand_resetRegisters hr _⟩

/-- Settles O43: one lemma about an operand register, for each of the three. -/
theorem onlyOperandWritesChangeOperands : Obligations.OnlyOperandWritesChangeOperands := fun _ _ h =>
  ⟨step_operand_changed (.inl rfl) h, step_operand_changed (.inr (.inl rfl)) h,
    step_operand_changed (.inr (.inr rfl)) h⟩

/-! ## RES and the ADJ bits -/

/-- NOP writes RES and the ADJ bits back as they are. -/
theorem exec_nop_eq {s t : State} (h : exec .nop s = .next t) : t = s := by
  rw [(exec_next_iff .nop s t).1 h, setResult_nop]

/-- A legal write leaves RES and the ADJ bits as they are or runs a command other than NOP. -/
theorem writeReg_result_cases {r : Reg} {v : Word} {s t : State} (h : writeReg r v s = .next t) :
    (t.res = s.res ∧ t.adj = s.adj) ∨ ∃ i, i ≠ .nop ∧ r = .cmd ∧ v = encode i ∧ exec i s = .next t := by
  rcases writeReg_cases h with ⟨hr, i, hi, hx⟩ | ⟨-, -, rfl⟩ | ⟨-, rfl⟩ | ⟨-, rfl⟩ | ⟨-, rfl⟩ | ⟨-, rfl⟩ | ⟨-, rfl⟩ |
    ⟨-, rfl⟩
  · obtain rfl | hnop := eq_or_ne i .nop
    · rw [exec_nop_eq hx]
      exact .inl ⟨rfl, rfl⟩
    · exact .inr ⟨i, hnop, hr, (decodeWord_eq_ok_iff_eq_encode v i).1 hi, hx⟩
  all_goals exact .inl ⟨rfl, rfl⟩

/-- Where RES and the ADJ bits of the state after an event come from: the state before it, one command, or a reset. -/
theorem step_result_cases {s t : State} {e : Event} {rest : List Event} (hp : s.pending = e :: rest)
    (h : step s = .next t) :
    (t.res = s.res ∧ t.adj = s.adj) ∨
      (∃ i, i ≠ .nop ∧ e.IsWrite s.base 0x00 (encode i) ∧ exec i (s.setPending rest) = .next t) ∨
      (e.IsReset ∧ t.res = 0 ∧ t.adj = ⟨false, false, false, false⟩) := by
  rcases step_cons_cases hp h with ⟨_, -, rfl⟩ | ⟨_, _, -, -, -, rfl⟩ | ⟨r, v, he, hw⟩ |
    ⟨_, _, _, -, -, -, rfl⟩ | ⟨c, he, rfl⟩
  · exact .inl ⟨rfl, rfl⟩
  · exact .inl ⟨rfl, rfl⟩
  · rcases writeReg_result_cases hw with hkeep | ⟨i, hi, rfl, rfl, hx⟩
    · exact .inl hkeep
    · exact .inr (.inl ⟨i, hi, he, hx⟩)
  · exact .inl ⟨rfl, rfl⟩
  · exact .inr (.inr ⟨⟨c, he⟩, rfl, rfl⟩)

/-- Settles O42: an event that neither runs a command nor resets keeps RES and the ADJ bits. -/
theorem onlyCommandsChangeResultAndAdj : Obligations.OnlyCommandsChangeResultAndAdj := by
  intro s t h hne
  rcases step_next_cases h with ⟨-, rfl⟩ | ⟨e, rest, hp⟩
  · simp at hne
  · rcases step_result_cases hp h with ⟨hres, hadj⟩ | hchange
    · simp [hres, hadj] at hne
    · exact ⟨e, rest, hp, hchange⟩

/-! ## The reset -/

/-- Settles O2: a step on a reset is `resetRegisters`. -/
theorem resetEventEntersTheResetState : Obligations.ResetEventEntersTheResetState := fun s _ rest hp =>
  ⟨(s.setPending rest).resetRegisters, step_reset hp, rfl, rfl, rfl, rfl, rfl, rfl, rfl, rfl, rfl, rfl, rfl,
    State.reset_statusWord, rfl, rfl, rfl⟩

/-! ## The invariant -/

/-- The invariant looks at the base address, RES and the ADJ bits alone. -/
theorem State.Inv.congr {s t : State} (hs : s.Inv) (hbase : t.base = s.base) (hres : t.res = s.res)
    (hadj : t.adj = s.adj) : t.Inv := by
  obtain ⟨haligned, hmadj, hone⟩ := hs
  obtain ⟨hh, hsat, hl, hm⟩ := Adj.mk.inj hadj
  refine ⟨hbase ▸ haligned, ?_, ?_⟩
  · rw [hh, hsat, hl, hm]
    exact hmadj
  · rw [hres, hadj]
    exact hone

/-- A command other than NOP brings the invariant about, given the alignment. -/
theorem inv_of_exec {i : Instr} (hi : i ≠ .nop) {s t : State} (h : exec i s = .next t) (hbase : t.base % 4 = 0) :
    t.Inv := by
  refine ⟨hbase, ?_, i, s, t, hi, h, rfl, rfl⟩
  obtain rfl := (exec_next_iff i s t).1 h
  exact adjOf_madj_alone i s hi

/-- PACK in the reset state, whose operands are 0, leaves RES and the ADJ bits at their reset values. -/
theorem exec_pack_reset : ∃ t, exec .pack State.reset = .next t ∧ t.res = 0 ∧ t.adj = ⟨false, false, false, false⟩ :=
  ⟨_, exec_eq .pack State.reset, by decide, by decide⟩

theorem inv_of_reset_values {t : State} (hbase : t.base % 4 = 0) (hres : t.res = 0)
    (hadj : t.adj = ⟨false, false, false, false⟩) : t.Inv := by
  obtain ⟨u, hpack, hures, huadj⟩ := exec_pack_reset
  have hu : (u.rehost t.base [] []).Inv := inv_of_exec (i := .pack) nofun (exec_rehost hpack t.base [] []) hbase
  exact hu.congr rfl (hres.trans hures.symm) (hadj.trans huadj.symm)

/-- Settles O48: the reset base address is aligned, and the other two parts are the reset values'. -/
theorem resetMeetsTheInvariant : Obligations.ResetMeetsTheInvariant := inv_of_reset_values rfl rfl rfl

/-- Settles O49: no event moves the base address, and RES and the ADJ bits after it are those before it, those of one
command, or the reset values. -/
theorem stepKeepsTheInvariant : Obligations.StepKeepsTheInvariant := by
  intro s t hs h
  rcases step_next_cases h with ⟨-, rfl⟩ | ⟨e, rest, hp⟩
  · exact hs
  obtain ⟨hbase, -⟩ := step_base_pending hp h
  have haligned : t.base % 4 = 0 := hbase ▸ hs.base_aligned
  rcases step_result_cases hp h with ⟨hres, hadj⟩ | ⟨i, hi, -, hx⟩ | ⟨-, hres, hadj⟩
  · exact hs.congr hbase hres hadj
  · exact inv_of_exec hi hx haligned
  · exact inv_of_reset_values haligned hres hadj

end Sys2Proof.Machine
end

section
/-! SUPPORT. ILL (60_exceptions.md R120): which accesses and which command words set it. -/

namespace Sys2Proof.Machine

/-! ## Illegal accesses -/

/-- The illegal accesses of a unit at an aligned base are those of its window that reach no register. -/
theorem illegalAccess_iff_target {s : State} (hb : s.base % 4 = 0) (addr width : Nat) :
    IllegalAccess s.base addr width ↔ s.inWindow addr = true ∧ s.target addr width = none := by
  rw [IllegalAccess, ← and_assoc, ← s.inWindow_iff]
  exact and_congr_right fun hw => (State.target_eq_none_iff hb hw).symm

theorem not_illegalAccess_offset {s : State} (hb : s.base % 4 = 0) (r : Reg) :
    ¬IllegalAccess s.base (s.base + r.offset) 4 := by
  rw [illegalAccess_iff_target hb, s.target_offset]
  simp

/-- Settles O55: 4 bytes at an aligned address of the window do not reach past its end, so the access reaches no
register. -/
theorem windowEndStraddlingAccessOnlySetsIll : Obligations.WindowEndStraddlingAccessOnlySetsIll := by
  intro s addr width rest hbase hlo hhi hpast
  have hbad : width ≠ 4 ∨ addr % 4 ≠ 0 ∨ addr = s.base + 0x1C := by omega
  obtain ⟨hw, ht⟩ := (illegalAccess_iff_target hbase addr width).1 ⟨hlo, hhi, hbad⟩
  exact ⟨fun _ => step_illegal_write hw ht, step_illegal_read hw ht⟩

/-! ## Illegal command words -/

theorem exists_decodeWord_error_iff_illegal (w : Word) :
    (∃ e, decodeWord w = .error e) ↔ 8 ≤ w.toNat % 16 ∨ w.toNat / 16 ≠ 0 := by
  rw [exists_decodeWord_eq_error_iff, exists_decodeWord_eq_ok_iff]
  omega

theorem Reg.offset_eq_zero_iff (r : Reg) : r.offset = 0 ↔ r = .cmd := by
  cases r <;> decide

/-- Of the legal writes only one of an illegal word to CMD raises ILL. -/
theorem writeReg_ill_iff {r : Reg} {v : Word} {s t : State} (h : writeReg r v s = .next t) (hs : s.ill = false) :
    t.ill = true ↔ r = .cmd ∧ ∃ e, decodeWord v = .error e := by
  rcases writeReg_cases h with ⟨rfl, i, hi, hx⟩ | ⟨rfl, he, rfl⟩ | ⟨rfl, rfl⟩ | ⟨rfl, rfl⟩ | ⟨rfl, rfl⟩ | ⟨rfl, rfl⟩ |
    ⟨rfl, rfl⟩ | ⟨rfl, rfl⟩
  · rw [(exec_next_iff i s t).1 hx]
    simp [hs, hi]
  · simp [he]
  all_goals simp [hs]

/-- A legal write is illegal as an event only if it writes an illegal word to CMD. -/
theorem isIllegal_write_offset_iff {s : State} (hb : s.base % 4 = 0) (r : Reg) (v : Word) :
    (Event.access (.write (s.base + r.offset) 4 v)).IsIllegal s.base ↔ r = .cmd ∧ ∃ e, decodeWord v = .error e := by
  rw [Event.IsIllegal, or_iff_right (not_illegalAccess_offset hb r), Nat.add_eq_left, r.offset_eq_zero_iff,
    exists_decodeWord_error_iff_illegal]
  simp

/-- Settles O44: case by case on what the step takes, ILL is 1 after it exactly if the event is illegal. -/
theorem illRisesExactlyOnIllegalEvents : Obligations.IllRisesExactlyOnIllegalEvents := by
  intro s t e rest hb hp h hs
  rcases step_cons_cases hp h with ⟨r, rfl, rfl⟩ | ⟨addr, width, rfl, hw, ht, rfl⟩ | ⟨r, v, rfl, hwrite⟩ |
    ⟨addr, width, v, rfl, hw, ht, rfl⟩ | ⟨c, rfl, rfl⟩
  · have hlegal : ¬(Event.access (.read (s.base + r.offset) 4)).IsIllegal s.base := not_illegalAccess_offset hb r
    simp [hs, hlegal]
  · have hill : (Event.access (.read addr width)).IsIllegal s.base :=
      (illegalAccess_iff_target hb addr width).2 ⟨hw, ht⟩
    simp [hill]
  · rw [writeReg_ill_iff hwrite hs, isIllegal_write_offset_iff hb]
  · have hill : (Event.access (.write addr width v)).IsIllegal s.base :=
      .inl ((illegalAccess_iff_target hb addr width).2 ⟨hw, ht⟩)
    simp [hill]
  · simp [State.reset, Event.IsIllegal]

end Sys2Proof.Machine
end

section
/-! SUPPORT. Sequences of register accesses (10_state.md section 3, 20_memory.md R47 and R49), and the layout of STATUS
(10_state.md R24). -/

namespace Sys2Proof.Machine

/-! ## Legal accesses in a row -/

theorem State.setPending_of_pending_eq {s : State} {es : List Event} (h : s.pending = es) : s.setPending es = s := by
  rw [← h, State.setPending_self]

theorem rehost_eq_setPending {s : State} {base : Nat} {ws : List Word} (hbase : s.base = base) (hws : s.returned = ws)
    (es : List Event) : s.rehost base es ws = s.setPending es := by
  subst hbase hws
  rfl

/-- A legal write does the same whatever events come after it. -/
theorem writeReg_setPending {r : Reg} {v : Word} {s t : State} (h : writeReg r v s = .next t) (es : List Event) :
    writeReg r v (s.setPending es) = .next (t.setPending es) := by
  obtain ⟨hbase, -, hreturned⟩ := writeReg_hostSide h
  rw [← rehost_eq_setPending hbase hreturned]
  exact writeReg_rehost h s.base es s.returned

theorem step_write_setPending {s t : State} {base : Nat} (hb : s.base = base) {r : Reg} {v : Word}
    (h : writeReg r v s = .next t) (es : List Event) :
    step (s.setPending (.access (.write (base + r.offset) 4 v) :: es)) = .next (t.setPending es) := by
  subst hb
  exact (step_write r rfl).trans (writeReg_setPending h es)

theorem run_write_setPending {s t : State} {base : Nat} (hb : s.base = base) {r : Reg} {v : Word}
    (h : writeReg r v s = .next t) (n : Nat) (es : List Event) :
    run (n + 1) (s.setPending (.access (.write (base + r.offset) 4 v) :: es)) = run n (t.setPending es) :=
  run_succ_of_next n (step_write_setPending hb h es)

theorem run_read_setPending {s : State} {base : Nat} (hb : s.base = base) (r : Reg) (n : Nat) (es : List Event) :
    run (n + 1) (s.setPending (.access (.read (base + r.offset) 4) :: es)) =
      run n ((s.setPending es).returnWord (s.readReg r)) := by
  subst hb
  rw [run_succ_of_next n (step_read r rfl), State.readReg_setPending, State.readReg_setPending]
  rfl

/-! ## Writing twice -/

theorem writeReg_idem {r : Reg} (hr : r ≠ .cmd) {v : Word} {s t : State} (h : writeReg r v s = .next t) :
    writeReg r v t = .next t := by
  cases r with
  | cmd => exact absurd rfl hr
  | opa | opb | opc | res => cases h; rfl
  | brt =>
    cases h
    rw [writeReg, State.writeBrt_idem]
  | status =>
    cases h
    rw [writeReg, State.clearSticky_idem]

/-- Settles O39: the second of two equal writes finds the register as it leaves it. -/
theorem registerWritesAreIdempotent : Obligations.RegisterWritesAreIdempotent := by
  rintro s e v rest off hoff rfl
  simp only [List.mem_cons, List.not_mem_nil, or_false] at hoff
  obtain ⟨r, rfl⟩ := exists_reg_offset (off := off) (by omega) (by omega)
  have hr : r ≠ .cmd := by
    rw [ne_eq, ← r.offset_eq_zero_iff]
    omega
  obtain ⟨t, ht⟩ := exists_writeReg_next r v s
  obtain ⟨hbase, -, -⟩ := writeReg_hostSide ht
  exact ⟨t.setPending rest, step_write_setPending rfl ht rest,
    (run_write_setPending rfl ht 1 _).trans (run_write_setPending hbase (writeReg_idem hr ht) 0 rest)⟩

/-! ## Reads after writes -/

theorem writeReg_operand_same {r : Reg} (hr : r.IsOperand) {v : Word} {s t : State} (h : writeReg r v s = .next t) :
    t.readReg r = v := by
  rcases hr with rfl | rfl | rfl <;> cases h <;> rfl

/-- No word written to CMD changes an operand (40_command.md R74). -/
theorem writeReg_cmd_operand {r : Reg} (hr : r.IsOperand) {w : Word} {s t : State} (h : writeReg .cmd w s = .next t) :
    t.readReg r = s.readReg r := by
  rcases writeReg_operand_cases hr h with hkeep | ⟨rfl, -⟩
  · exact hkeep
  · exact absurd hr (by simp [Reg.IsOperand])

/-- Settles O33: the first write puts v into the operand, the write to CMD keeps it, and the read returns it. -/
theorem operandsReadBackAcrossACommand : Obligations.OperandsReadBackAcrossACommand := by
  intro s v w rest off hoff hp
  obtain ⟨r, hr, rfl⟩ := Reg.exists_operand_offset hoff
  obtain ⟨t, ht⟩ := exists_writeReg_next r v s
  obtain ⟨htbase, -, htreturned⟩ := writeReg_hostSide ht
  obtain ⟨u, hu⟩ := exists_writeReg_next .cmd w t
  obtain ⟨hubase, -, hureturned⟩ := writeReg_hostSide hu
  have hread : u.readReg r = v := (writeReg_cmd_operand hr hu).trans (writeReg_operand_same hr ht)
  rw [← State.setPending_of_pending_eq hp]
  refine ⟨(u.setPending rest).returnWord (u.readReg r), ?_, ?_, rfl⟩
  · exact (run_write_setPending rfl ht 2 _).trans ((run_write_setPending htbase hu 1 _).trans
      (run_read_setPending (hubase.trans htbase) r 0 rest))
  · rw [State.returnWord_returned, State.setPending_returned, hureturned, htreturned, hread]
    rfl

/-- Settles O40: the write to CMD leaves what `exec` leaves, and the read after it returns RES of that state. -/
theorem readAfterCommandSeesItsResult : Obligations.ReadAfterCommandSeesItsResult := by
  intro s t i rest hp hx
  have hwrite : writeReg .cmd (encode i) (s.setPending rest) = .next t := (commandWrite_encode i _).trans hx
  obtain ⟨hbase, (hpending : t.pending = rest), hreturned⟩ := writeReg_hostSide hwrite
  refine ⟨t.readReg .res, BitVec.toNat_setWidth_of_le (by decide), ?_⟩
  rw [← State.setPending_of_pending_eq hp]
  calc run 2 ((s.setPending rest).setPending _)
      = run 1 (t.setPending (.access (.read (s.base + 0x14) 4) :: rest)) := run_write_setPending rfl hwrite 1 _
    _ = .next ((t.setPending rest).returnWord (t.readReg .res)) := run_read_setPending hbase .res 0 rest
    _ = .next { t with returned := t.readReg .res :: s.returned } := by
      rw [State.setPending_of_pending_eq hpending, State.returnWord, hreturned]
      rfl

/-- Settles O30: the brightness write leaves `writeBrt`, whose RES is the old one and whose BRT is v's low byte. -/
theorem scaleUsesTheNewBrightness : Obligations.ScaleUsesTheNewBrightness := by
  intro s v rest hp
  have hbright : step s = .next ((s.setPending (.access (.write s.base 4 0x00000006) :: rest)).writeBrt v) :=
    step_write .brt hp
  refine ⟨_, _, hbright, rfl, (step_command rfl rfl).trans (exec_eq .scale _), rfl, fun br hbr => ?_⟩
  rw [← (lowByte_eq_iff v br).2 hbr.symm]
  rfl

/-! ## The layout of STATUS -/

/-- The 10 bits of STATUS from bit 0 up; every bit above them is 0. -/
theorem State.statusWord_getLsbD (s : State) (k : Nat) :
    s.statusWord.getLsbD k =
      ([s.z, s.hadj, s.sadj, s.ladj, s.madj, false, false, false, s.bchg, s.ill][k]?).getD false := by
  have hk : k < 10 ∨ 10 ≤ k := by omega
  rcases hk with hk | hk
  · rw [State.statusWord, BitVec.getLsbD_setWidth]
    simp only [BitVec.getLsbD_append]
    interval_cases k <;> simp
  · rw [List.getElem?_eq_none hk, State.statusWord, BitVec.getLsbD_setWidth, BitVec.getLsbD_of_ge _ k hk,
      Bool.and_false]
    rfl

/-- Settles O35: each bit is looked up in the list of the 10 bits. -/
theorem statusHasTheStatedLayout : Obligations.StatusHasTheStatedLayout := by
  intro s
  have hbit := s.statusWord_getLsbD
  refine ⟨hbit 0, hbit 1, hbit 2, hbit 3, hbit 4, hbit 8, hbit 9, fun k hk => ?_⟩
  rw [hbit]
  rcases hk with ⟨hlo, hhi⟩ | hk
  · interval_cases k <;> rfl
  · rw [List.getElem?_eq_none hk]
    rfl

end Sys2Proof.Machine
end

section
/-! SUPPORT. What a step does not depend on: what was read before and what comes later (10_state.md section 5), and the
base address (00_scope.md R3). -/

namespace Sys2Proof.Machine

/-! ## The record and the events to come -/

/-- Settles O51: whichever way a step answers, it answers the same way with other events to come and another record. -/
theorem onlyTheRegistersMatter : Obligations.OnlyTheRegistersMatter := by
  intro s t e rest rest' ws hp h
  rcases step_cons_cases hp h with ⟨r, rfl, rfl⟩ | ⟨addr, width, rfl, hw, ht, rfl⟩ | ⟨r, v, rfl, hwrite⟩ |
    ⟨addr, width, v, rfl, hw, ht, rfl⟩ | ⟨c, rfl, rfl⟩
  · refine ⟨[s.readReg r], rfl, (step_read r rfl).trans ?_⟩
    cases r <;> rfl
  · exact ⟨[0], rfl, step_illegal_read hw ht rfl⟩
  · obtain ⟨(hbase : t.base = s.base), -, hreturned⟩ := writeReg_hostSide hwrite
    have ht : t.rehost s.base rest' ws = { t with pending := rest', returned := ws } := by
      rw [← hbase]
      rfl
    exact ⟨[], hreturned, (step_write r rfl).trans ((writeReg_rehost hwrite s.base rest' ws).trans (congrArg _ ht))⟩
  · exact ⟨[], rfl, step_illegal_write hw ht rfl⟩
  · exact ⟨[], rfl, step_reset rfl⟩

/-! ## The base address -/

theorem shift_setPending (s : State) (d : Nat) (es : List Event) :
    (s.setPending es).shift d = (s.shift d).setPending (es.map (Event.shift d)) := rfl

theorem State.inWindow_shift (s : State) (d addr : Nat) : (s.shift d).inWindow (addr + d) = s.inWindow addr := by
  have hbase : (s.shift d).base = s.base + d := rfl
  rw [Bool.eq_iff_iff, State.inWindow_iff, State.inWindow_iff, hbase]
  omega

theorem State.target_shift (s : State) (d addr width : Nat) :
    (s.shift d).target (addr + d) width = s.target addr width := by
  have hbase : (s.shift d).base = s.base + d := rfl
  rw [State.target, State.target, hbase, Nat.add_sub_add_right]

theorem State.readReg_shift (s : State) (d : Nat) (r : Reg) : (s.shift d).readReg r = s.readReg r :=
  readReg_rehost s (s.base + d) (s.pending.map (Event.shift d)) s.returned r

/-- A legal write moved up: it is `rehost` to the base and the events moved up. -/
theorem writeReg_shift (r : Reg) (v : Word) (s : State) (d : Nat) :
    writeReg r v (s.shift d) = shiftOutcome d (writeReg r v s) := by
  obtain ⟨t, ht⟩ := exists_writeReg_next r v s
  obtain ⟨hbase, hpending, hreturned⟩ := writeReg_hostSide ht
  have hshift : t.rehost (s.base + d) (s.pending.map (Event.shift d)) s.returned = t.shift d := by
    rw [← hbase, ← hpending, ← hreturned]
    rfl
  rw [ht, shiftOutcome, ← hshift]
  exact writeReg_rehost ht _ _ _

theorem hostRead_shift (addr width : Nat) (s : State) (d : Nat) :
    hostRead (addr + d) width (s.shift d) = shiftOutcome d (hostRead addr width s) := by
  rw [hostRead, hostRead, s.inWindow_shift, s.target_shift]
  split
  · cases s.target addr width with
    | some r =>
      simp only [s.readReg_shift]
      rfl
    | none => rfl
  · rfl

theorem hostWrite_shift (addr width : Nat) (v : Word) (s : State) (d : Nat) :
    hostWrite (addr + d) width v (s.shift d) = shiftOutcome d (hostWrite addr width v s) := by
  rw [hostWrite, hostWrite, s.inWindow_shift, s.target_shift]
  split
  · cases s.target addr width with
    | some r => exact writeReg_shift r v s d
    | none => rfl
  · rfl

theorem runEvent_shift (e : Event) (s : State) (d : Nat) :
    runEvent (e.shift d) (s.shift d) = shiftOutcome d (runEvent e s) := by
  rcases e with (⟨addr, width⟩ | ⟨addr, width, v⟩) | c | a
  · exact hostRead_shift addr width s d
  · exact hostWrite_shift addr width v s d
  · rfl
  · rfl

theorem step_shift (s : State) (d : Nat) : step (s.shift d) = shiftOutcome d (step s) := by
  cases hp : s.pending with
  | nil =>
    have hpd : (s.shift d).pending = [] := congrArg (List.map (Event.shift d)) hp
    rw [step_nil hp, step_nil hpd, shiftOutcome]
  | cons e rest =>
    have hpd : (s.shift d).pending = e.shift d :: rest.map (Event.shift d) := congrArg (List.map (Event.shift d)) hp
    rw [step_cons hp, step_cons hpd, ← runEvent_shift, shift_setPending]

/-- Settles O50, by induction on the number of steps, each of which commutes with the move. -/
theorem baseAddressIsImmaterial : Obligations.BaseAddressIsImmaterial := by
  intro s d n
  induction n generalizing s with
  | zero => rfl
  | succ n ih =>
    rw [run, run, step_shift]
    cases step s with
    | next t => exact ih t
    | fault f => rfl
    | refused r => rfl

end Sys2Proof.Machine
end

section
/-! SUPPORT. The host assembly (30_encoding.md R65 and R66): its lines are answered, and a pseudo-instruction runs its
command. -/

namespace Sys2Proof.Machine

/-! ## Lines -/

theorem offset_in_window {off : Nat} (h : off < Config.windowBytes) (base : Nat) :
    (decide (base ≤ base + off) && decide (base + off < base + 0x20)) = true := by
  rw [Bool.and_eq_true, decide_eq_true_iff, decide_eq_true_iff]
  exact ⟨Nat.le_add_right base off, Nat.add_lt_add_left h base⟩

/-- A register's offset and a well-formed raw offset lie in the window. -/
theorem AsmLine.event_admitted {line : AsmLine} (h : line.wellFormed = true) (base : Nat) :
    (line.event base).admitted base = true := by
  cases line with
  | wr r value => exact offset_in_window r.offset_lt base
  | rd r => exact offset_in_window r.offset_lt base
  | cmd i => exact offset_in_window Reg.cmd.offset_lt base
  | wrRaw off value =>
    obtain ⟨hoff, -⟩ := Bool.and_eq_true_iff.1 h
    exact offset_in_window (of_decide_eq_true hoff) base
  | rdRaw off => exact offset_in_window (of_decide_eq_true h) base

/-- Settles O53: every line is an access whose first byte is in the window. -/
theorem wellFormedAsmLinesAreAnswered : Obligations.WellFormedAsmLinesAreAnswered :=
  fun s _ _ hwf hp => exists_step_next hp (AsmLine.event_admitted hwf s.base)

/-! ## Pseudo-instructions -/

theorem run_one (s : State) : run 1 s = step s := by
  rw [run]
  cases step s <;> rfl

/-- The line `cmd <MNEMONIC>` runs the command. -/
theorem run_command_line {s : State} {base : Nat} (hb : s.base = base) (i : Instr) (es : List Event) :
    run 1 (s.setPending (AsmLine.event base (.cmd i) :: es)) = exec i (s.setPending es) := by
  subst hb
  rw [run_one]
  exact step_command rfl ((decodeWord_eq_ok_iff_eq_encode _ i).2 rfl)

/-- The lines of a command with one operand. -/
theorem run_one_operand {s : State} {a : Int} {i : Instr} {rest : List Event}
    (hp : s.pending = [AsmLine.wr .opa a, .cmd i].map (AsmLine.event s.base) ++ rest) :
    run 2 s = exec i ((s.setOpa (valueWord a)).setPending rest) := by
  rw [← State.setPending_of_pending_eq hp]
  exact (run_write_setPending (r := .opa) rfl rfl 1 _).trans (run_command_line rfl i rest)

/-- The lines of a command with three operands. -/
theorem run_three_operands {s : State} {a b c : Int} {i : Instr} {rest : List Event}
    (hp : s.pending = [AsmLine.wr .opa a, .wr .opb b, .wr .opc c, .cmd i].map (AsmLine.event s.base) ++ rest) :
    run 4 s =
      exec i ((((s.setOpa (valueWord a)).setOpb (valueWord b)).setOpc (valueWord c)).setPending rest) := by
  rw [← State.setPending_of_pending_eq hp]
  exact (run_write_setPending (r := .opa) rfl rfl 3 _).trans ((run_write_setPending (r := .opb) rfl rfl 2 _).trans
    ((run_write_setPending (r := .opc) rfl rfl 1 _).trans (run_command_line rfl i rest)))

theorem lowByte_valueWord (v : Int) : lowByte (valueWord v) = BitVec.ofInt 8 v := by
  apply BitVec.eq_of_toNat_eq
  rw [lowByte_toNat, valueWord, BitVec.toNat_ofInt, BitVec.toNat_ofInt]
  omega

/-- Bits 8 and 9 of the word that `clrst` writes clear both sticky bits. -/
theorem clearSticky_both (s : State) : s.clearSticky (valueWord 0x300) = { s with bchg := false, ill := false } := by
  have h8 : (valueWord 0x300).getLsbD 8 = true := by decide
  have h9 : (valueWord 0x300).getLsbD 9 = true := by decide
  rw [State.clearSticky, h8, h9, Bool.not_true, Bool.and_false, Bool.and_false]

/-- Settles O52: the operand lines write the operands, and the last line runs the command. -/
theorem pseudoInstructionsRunTheirCommand : Obligations.PseudoInstructionsRunTheirCommand := by
  intro s p rest hp
  refine ⟨?_, ?_, ?_, ?_, ?_, ?_, ?_, ?_, ?_, ?_⟩
  · rintro r g b rfl
    exact run_three_operands hp
  · rintro h sat l rfl
    exact run_three_operands hp
  · rintro c rfl
    exact run_one_operand hp
  · rintro c rfl
    exact run_one_operand hp
  · rintro c rfl
    exact run_one_operand hp
  · rintro c rfl
    exact run_one_operand hp
  · rintro v rfl
    exact run_one_operand hp
  · rintro v rfl
    exact ⟨_, (run_one s).trans (step_write .brt hp), lowByte_valueWord v, rfl⟩
  · rintro rfl
    exact (run_one s).trans ((step_write .status hp).trans (congrArg _ (clearSticky_both _)))
  · rintro rfl
    exact (run_one s).trans ((step_write .cmd hp).trans (commandWrite_encode .nop _))

end Sys2Proof.Machine
end

section
/-! SUPPORT. The laws of the scaling function (43_scale.md R115). -/

namespace Sys2Proof.Machine

theorem scale8_le_channel (ch br : Byte) : (scale8 ch br).toNat ≤ ch.toNat := by
  rw [scale8_toNat]
  split
  · exact Nat.div_le_of_le_mul (by rw [Nat.mul_comm]; exact Nat.mul_le_mul_right _ br.isLt.le)
  · exact le_rfl

/-- Below full brightness the product is at most 255 × 254. -/
theorem scale8_le_of_lt {br : Byte} (hbr : br.toNat < 255) (ch : Byte) : (scale8 ch br).toNat ≤ 253 := by
  have hprod : ch.toNat * br.toNat ≤ 255 * 254 := Nat.mul_le_mul (Nat.le_of_lt_succ ch.isLt) (Nat.le_of_lt_succ hbr)
  rw [scale8_toNat_of_lt hbr]
  omega

/-- At full brightness the greater channel comes through whole, and the smaller one is not brightened. -/
theorem scale8_mono {ch ch' br br' : Byte} (hch : ch.toNat ≤ ch'.toNat) (hbr : br.toNat ≤ br'.toNat) :
    (scale8 ch br).toNat ≤ (scale8 ch' br').toNat := by
  by_cases hlt : br'.toNat < 255
  · rw [scale8_toNat_of_lt hlt, scale8_toNat_of_lt (hbr.trans_lt hlt)]
    exact Nat.div_le_div_right (Nat.mul_le_mul hch hbr)
  · have hfull : br'.toNat = 255 := by
      have := br'.isLt
      omega
    rw [scale8_of_full hfull]
    exact (scale8_le_channel ch br).trans hch

/-- Settles O28: the laws one by one; the examples are computed. -/
theorem scaleLaws : Obligations.ScaleLaws :=
  ⟨fun ch br => ⟨scale8_le_channel ch br, fun hbr => scale8_le_of_lt hbr ch⟩, fun _ _ _ _ => scale8_mono,
    fun ch => ⟨scale8_of_full rfl ch, scale8_of_le_one (by decide) ch⟩, by decide, by decide, by decide, by decide⟩

end Sys2Proof.Machine
end

section
/-! SUPPORT. The quantities of the HSL converter on reduced inputs (42_hsl.md R92 to R98): their values, and the ranges
of 42_hsl.md R102. -/

namespace Sys2Proof.Machine

/-! ## The second-largest component -/

theorem secondLargest_eq (c h : Int) : secondLargest c h = c * (256 - sectorDistance h) / 256 :=
  shr_eq (c * (256 - sectorDistance h)) 8

theorem secondLargest_range {c h : Int} (hc : 0 ≤ c) (hh : 0 ≤ h) : 0 ≤ secondLargest c h ∧ secondLargest c h ≤ c := by
  obtain ⟨hlo, hhi⟩ := sectorDistance_range hh
  have hprod : 0 ≤ c * (256 - sectorDistance h) := mul_nonneg hc (by omega)
  have hprod' : c * (256 - sectorDistance h) ≤ c * 256 := mul_le_mul_of_nonneg_left (by omega) hc
  rw [secondLargest_eq]
  omega

/-- At a sector's first hue the fraction is 0. -/
theorem sectorFraction_eq_zero {h : Int} (hh : 0 ≤ h) (hfirst : h % 60 = 0) : sectorFraction h = 0 := by
  rw [sectorFraction_eq hh, hfirst]
  rfl

theorem secondLargest_of_even {h : Int} (hh : 0 ≤ h) (heven : h / 60 % 2 = 0) (c : Int) :
    secondLargest c h = c * sectorFraction h / 256 := by
  have hdist : sectorDistance h = 256 - sectorFraction h := by
    rcases sectorDistance_cases hh with ⟨-, hd⟩ | ⟨hodd, -⟩
    · exact hd
    · omega
  rw [secondLargest_eq, hdist, sub_sub_cancel]

theorem secondLargest_of_odd {h : Int} (hh : 0 ≤ h) (hodd : h / 60 % 2 = 1) (c : Int) :
    secondLargest c h = c * (256 - sectorFraction h) / 256 := by
  have hdist : sectorDistance h = sectorFraction h := by
    rcases sectorDistance_cases hh with ⟨heven, -⟩ | ⟨-, hd⟩
    · omega
    · exact hd
  rw [secondLargest_eq, hdist]

/-- Settles O27: x goes with the fraction in an even sector and against it in an odd one. -/
theorem secondLargestInterpolates : Obligations.SecondLargestInterpolates := by
  intro c h hc hh _
  obtain ⟨hlo, hhi⟩ := sectorFraction_range hh
  refine ⟨hlo, hhi, fun heven => secondLargest_of_even hh heven c, fun hodd => secondLargest_of_odd hh hodd c,
    fun hfirst heven => ?_, fun hfirst hodd => ?_⟩
  · rw [secondLargest_of_even hh heven, sectorFraction_eq_zero hh hfirst, mul_zero, Int.zero_ediv]
  · rw [secondLargest_of_odd hh hodd, sectorFraction_eq_zero hh hfirst, sub_zero, Int.mul_ediv_cancel c (by decide)]

/-! ## The chroma -/

/-- The linear bounds of the chroma, on each side of lightness 50: 25344 is 99 × 256. -/
theorem chroma_bounds {l s : Int} (hl : 0 ≤ l) (hl' : l ≤ 99) (hs : 0 ≤ s) (hs' : s ≤ 99) :
    0 ≤ chroma l s ∧ 10000 * chroma l s ≤ 25344 * (2 * l) ∧ 10000 * chroma l s ≤ 25344 * (200 - 2 * l) := by
  obtain ⟨d, hd, hd0, hdlo, hdhi⟩ :
      ∃ d, d = 100 - |2 * l - 100| ∧ 0 ≤ d ∧ d ≤ 2 * l ∧ d ≤ 200 - 2 * l := by
    refine ⟨_, rfl, ?_⟩
    rcases abs_cases (2 * l - 100) with ⟨habs, hsign⟩ | ⟨habs, hsign⟩ <;> rw [habs] <;> omega
  have hprod : 0 ≤ d * s := mul_nonneg hd0 hs
  have hprod' : d * s ≤ d * 99 := mul_le_mul_of_nonneg_left hs' hd0
  rw [chroma_eq hl hl' hs, ← hd]
  omega

theorem chroma_le {l s : Int} (hl : 0 ≤ l) (hl' : l ≤ 99) (hs : 0 ≤ s) (hs' : s ≤ 99) : chroma l s ≤ 253 := by
  obtain ⟨-, hlo, hhi⟩ := chroma_bounds hl hl' hs hs'
  omega

/-- The dividend of m is not negative. -/
theorem chroma_le_dividend {l s : Int} (hl : 0 ≤ l) (hl' : l ≤ 99) (hs : 0 ≤ s) (hs' : s ≤ 99) :
    chroma l s ≤ l * 512 / 100 := by
  obtain ⟨-, hlo, -⟩ := chroma_bounds hl hl' hs hs'
  omega

theorem chroma_zero_saturation (l : Int) : chroma l 0 = 0 := by
  rw [chroma, mul_zero, zero_mul]
  rfl

/-! ## The lightness offset -/

theorem lightnessOffset_eq {l c : Int} (hl : 0 ≤ l) (hc : c ≤ l * 512 / 100) :
    lightnessOffset l c = (l * 2 * 256 / 100 - c) / 2 := by
  rw [lightnessOffset, idiv_eq 100 (by omega), idiv_eq 2 (by omega)]

/-- m, and the largest channel c + m, are bytes. -/
theorem lightnessOffset_range {l s : Int} (hl : 0 ≤ l) (hl' : l ≤ 99) (hs : 0 ≤ s) (hs' : s ≤ 99) :
    0 ≤ lightnessOffset l (chroma l s) ∧ lightnessOffset l (chroma l s) ≤ 253 ∧
      chroma l s + lightnessOffset l (chroma l s) ≤ 255 := by
  obtain ⟨hc, hlo, hhi⟩ := chroma_bounds hl hl' hs hs'
  rw [lightnessOffset_eq hl (chroma_le_dividend hl hl' hs hs')]
  omega

/-- The largest channel is 0 at lightness 0 alone. -/
theorem chroma_add_lightnessOffset_eq_zero_iff {l s : Int} (hl : 0 ≤ l) (hl' : l ≤ 99) (hs : 0 ≤ s) (hs' : s ≤ 99) :
    chroma l s + lightnessOffset l (chroma l s) = 0 ↔ l = 0 := by
  obtain ⟨hc, hlo, hhi⟩ := chroma_bounds hl hl' hs hs'
  rw [lightnessOffset_eq hl (chroma_le_dividend hl hl' hs hs')]
  omega

/-! ## The channels -/

/-- The sector table puts c, x and 0 in some order. -/
theorem sectorTable_cases (h1 c x : Int) :
    sectorTable h1 c x = (c, x, 0) ∨ sectorTable h1 c x = (x, c, 0) ∨ sectorTable h1 c x = (0, c, x) ∨
      sectorTable h1 c x = (0, x, c) ∨ sectorTable h1 c x = (x, 0, c) ∨ sectorTable h1 c x = (c, 0, x) := by
  unfold sectorTable
  split_ifs <;> simp

/-- Three channels that are c + m, x + m and m in some order. -/
theorem hslChannels_cases (h s l : Int) {c x m : Int} (hc : c = chroma l s) (hx : x = secondLargest c h)
    (hm : m = lightnessOffset l c) :
    hslChannels h s l = (c + m, x + m, m) ∨ hslChannels h s l = (x + m, c + m, m) ∨
      hslChannels h s l = (m, c + m, x + m) ∨ hslChannels h s l = (m, x + m, c + m) ∨
      hslChannels h s l = (x + m, m, c + m) ∨ hslChannels h s l = (c + m, m, x + m) := by
  subst hc hx hm
  rcases sectorTable_cases (sector h) (chroma l s) (secondLargest (chroma l s) h) with ht | ht | ht | ht | ht | ht <;>
    simp [hslChannels, ht]

theorem hslChannels_range {h s l : Int} (hh : 0 ≤ h) (hs : 0 ≤ s) (hs' : s ≤ 99) (hl : 0 ≤ l) (hl' : l ≤ 99) :
    (0 ≤ (hslChannels h s l).1 ∧ (hslChannels h s l).1 ≤ 255) ∧
      (0 ≤ (hslChannels h s l).2.1 ∧ (hslChannels h s l).2.1 ≤ 255) ∧
      0 ≤ (hslChannels h s l).2.2 ∧ (hslChannels h s l).2.2 ≤ 255 := by
  obtain ⟨hc, -⟩ := chroma_bounds hl hl' hs hs'
  obtain ⟨hx, hx'⟩ := secondLargest_range hc hh
  obtain ⟨hm, -, hcm⟩ := lightnessOffset_range hl hl' hs hs'
  rcases hslChannels_cases h s l rfl rfl rfl with he | he | he | he | he | he <;> rw [he] <;> dsimp only <;> omega

/-- All channels are 0 exactly when the largest is. -/
theorem hslChannels_eq_zero_iff {h s l : Int} (hh : 0 ≤ h) (hs : 0 ≤ s) (hs' : s ≤ 99) (hl : 0 ≤ l) (hl' : l ≤ 99) :
    hslChannels h s l = (0, 0, 0) ↔ l = 0 := by
  obtain ⟨hc, -⟩ := chroma_bounds hl hl' hs hs'
  obtain ⟨hx, hx'⟩ := secondLargest_range hc hh
  obtain ⟨hm, -, -⟩ := lightnessOffset_range hl hl' hs hs'
  rw [← chroma_add_lightnessOffset_eq_zero_iff hl hl' hs hs']
  rcases hslChannels_cases h s l rfl rfl rfl with he | he | he | he | he | he <;>
    simp only [he, Prod.mk.injEq] <;> omega

/-- Settles O22: the ranges of c, m, x and the channels, which are sums of them. -/
theorem hslRangeLaws : Obligations.HslRangeLaws := by
  intro h s l hh _ hs hs' hl hl'
  obtain ⟨hc, -⟩ := chroma_bounds hl hl' hs hs'
  obtain ⟨hm, hm', -⟩ := lightnessOffset_range hl hl' hs hs'
  obtain ⟨hx, hx'⟩ := secondLargest_range hc hh
  obtain ⟨⟨hr, hr'⟩, ⟨hg, hg'⟩, hb, hb'⟩ := hslChannels_range hh hs hs' hl hl'
  exact ⟨hc, chroma_le hl hl' hs hs', sub_nonneg.2 (chroma_le_dividend hl hl' hs hs'), hm, hm', hx, hx', hr, hr', hg,
    hg', hb, hb', hslChannels_eq_zero_iff hh hs hs' hl hl'⟩

end Sys2Proof.Machine
end

section
/-! SUPPORT. HSL's result as a number (42_hsl.md R99 and R100), and its corner cases. -/

namespace Sys2Proof.Machine

/-! ## The Color of three channels -/

theorem toNat_ofInt_of_range {w : Nat} {a : Int} (ha : 0 ≤ a) (ha' : a < 2 ^ w) :
    ((BitVec.ofInt w a).toNat : Int) = a := by
  rw [BitVec.toNat_ofInt, Int.toNat_of_nonneg (Int.emod_nonneg _ (by positivity))]
  exact Int.emod_eq_of_lt ha (by exact_mod_cast ha')

/-- Packing three bytes masks nothing. -/
theorem pack_ofInt_toNat {r g b : Int} (hr : 0 ≤ r ∧ r ≤ 255) (hg : 0 ≤ g ∧ g ≤ 255) (hb : 0 ≤ b ∧ b ≤ 255) :
    ((pack (BitVec.ofInt 32 r) (BitVec.ofInt 32 g) (BitVec.ofInt 32 b)).toNat : Int) = r * 65536 + g * 256 + b := by
  have hr32 := toNat_ofInt_of_range (w := 32) hr.1 (by omega)
  have hg32 := toNat_ofInt_of_range (w := 32) hg.1 (by omega)
  have hb32 := toNat_ofInt_of_range (w := 32) hb.1 (by omega)
  rw [pack_toNat]
  omega

theorem hsl_toNat {h s l r g b : Int} (he : hslChannels (reduceHue h) (clampPercent s) (clampPercent l) = (r, g, b)) :
    ((hsl h s l).toNat : Int) = r * 65536 + g * 256 + b := by
  obtain ⟨hhue, -⟩ := reduceHue_range h
  obtain ⟨hs, hs'⟩ := clampPercent_range s
  obtain ⟨hl, hl'⟩ := clampPercent_range l
  obtain ⟨hr, hg, hb⟩ := hslChannels_range hhue hs hs' hl hl'
  rw [he] at hr hg hb
  rw [hsl, he]
  exact pack_ofInt_toNat hr hg hb

/-! ## The command's result -/

theorem exec_hsl_res {s t : State} (h : exec .hsl s = .next t) :
    t.res = hsl s.opa.toInt s.opb.toInt s.opc.toInt := exec_res h

theorem exec_hsl_toNat {s t : State} {h' s' l' r g b : Int} (h : exec .hsl s = .next t)
    (hh : reduceHue s.opa.toInt = h') (hs : clampPercent s.opb.toInt = s') (hl : clampPercent s.opc.toInt = l')
    (he : hslChannels h' s' l' = (r, g, b)) : (t.res.toNat : Int) = r * 65536 + g * 256 + b := by
  subst hh hs hl
  rw [exec_hsl_res h]
  exact hsl_toNat he

theorem clampPercent_eq_zero_iff (a : Int) : clampPercent a = 0 ↔ a ≤ 0 := by
  rw [clampPercent_eq]
  omega

theorem exec_hsl_res_eq_zero_iff {s t : State} (h : exec .hsl s = .next t) :
    t.res = 0 ↔
      hslChannels (reduceHue s.opa.toInt) (clampPercent s.opb.toInt) (clampPercent s.opc.toInt) = (0, 0, 0) := by
  obtain ⟨hhue, -⟩ := reduceHue_range s.opa.toInt
  obtain ⟨hs, hs'⟩ := clampPercent_range s.opb.toInt
  obtain ⟨hl, hl'⟩ := clampPercent_range s.opc.toInt
  have hrange := hslChannels_range hhue hs hs' hl hl'
  obtain ⟨⟨r, g, b⟩, he⟩ : ∃ p, hslChannels (reduceHue s.opa.toInt) (clampPercent s.opb.toInt)
      (clampPercent s.opc.toInt) = p := ⟨_, rfl⟩
  rw [he] at hrange
  have hres : (t.res.toNat : Int) = r * 65536 + g * 256 + b := exec_hsl_toNat h rfl rfl rfl he
  rw [he, ← BitVec.toNat_inj, Prod.mk.injEq, Prod.mk.injEq]
  dsimp only at hrange
  simp only [BitVec.ofNat_eq_ofNat, BitVec.toNat_ofNat, Nat.zero_mod]
  omega

/-- Settles O24: RES is 0 exactly if the three channels are, which is at lightness 0 alone. -/
theorem hslBlackExactlyAtZeroLightness : Obligations.HslBlackExactlyAtZeroLightness := by
  intro s t h
  obtain ⟨hhue, -⟩ := reduceHue_range s.opa.toInt
  obtain ⟨hs, hs'⟩ := clampPercent_range s.opb.toInt
  obtain ⟨hl, hl'⟩ := clampPercent_range s.opc.toInt
  rw [State.z_iff, exec_hsl_res_eq_zero_iff h, hslChannels_eq_zero_iff hhue hs hs' hl hl', clampPercent_eq_zero_iff]

theorem hslChannels_zero_saturation {h l : Int} (hh : 0 ≤ h) (hl : 0 ≤ l) :
    hslChannels h 0 l = (l * 512 / 100 / 2, l * 512 / 100 / 2, l * 512 / 100 / 2) := by
  have hc := chroma_zero_saturation l
  have hx : secondLargest 0 h = 0 := by
    obtain ⟨hlo, hhi⟩ := secondLargest_range le_rfl hh
    omega
  have hm : lightnessOffset l 0 = l * 512 / 100 / 2 := by
    rw [lightnessOffset_eq hl (by omega)]
    omega
  rcases hslChannels_cases h 0 l hc.symm hx.symm hm.symm with he | he | he | he | he | he <;> rw [he, zero_add]

/-- Settles O25: with saturation 0, c and x are 0 and every channel is m. -/
theorem hslGreyWithoutSaturation : Obligations.HslGreyWithoutSaturation := by
  intro s t h hsat
  have hs : clampPercent s.opb.toInt = 0 := (clampPercent_eq_zero_iff _).2 hsat
  obtain ⟨hhue, -⟩ := reduceHue_range s.opa.toInt
  obtain ⟨hl, -⟩ := clampPercent_range s.opc.toInt
  have hgrey := exec_hsl_toNat h rfl hs rfl (hslChannels_zero_saturation hhue hl)
  rw [clampPercent_eq] at hgrey
  refine ⟨?_, fun hlight => ?_⟩
  · rintro l' rfl
    omega
  · apply BitVec.eq_of_toNat_eq
    have hmax : max 0 (min 99 s.opc.toInt) = 99 := by omega
    rw [hmax] at hgrey
    show t.res.toNat = 0xFDFDFD
    omega

/-- Settles O26: the reduced inputs are known, and the converter computes their Color. -/
theorem hslPrimaryHues : Obligations.HslPrimaryHues := by
  intro s t h hsat hlight
  have hs : clampPercent s.opb.toInt = 99 := by
    rw [clampPercent_eq]
    omega
  have hl : clampPercent s.opc.toInt = 50 := by
    rw [hlight]
    rfl
  rw [exec_hsl_res h, hsl, hs, hl]
  constructor
  · intro hhue
    rw [reduceHue_eq, hhue]
    rfl
  · intro hhue
    rw [reduceHue_eq, hhue]
    rfl

theorem secondLargest_eq_spec {h : Int} (hh : 0 ≤ h) (c : Int) :
    secondLargest c h = c * (256 - |h / 60 % 2 * 256 + (h - 60 * (h / 60)) * 256 / 60 - 256|) / 256 := by
  have hpos : h - 60 * (h / 60) = h % 60 := by omega
  rw [secondLargest_eq, sectorDistance_eq hh, sectorFraction_eq hh, hpos]

/-- HSL's RES from a row of the sector table (42_hsl.md R96 and R98). -/
theorem hsl_toNat_of_row {h s l c x m k r g b : Int} (hc : chroma (clampPercent l) (clampPercent s) = c)
    (hx : secondLargest c (reduceHue h) = x) (hm : lightnessOffset (clampPercent l) c = m) (hk : reduceHue h / 60 = k)
    (hrow : sectorTable k c x = (r, g, b)) :
    ((hsl h s l).toNat : Int) = (r + m) * 65536 + (g + m) * 256 + (b + m) := by
  obtain ⟨hhue, -⟩ := reduceHue_range h
  apply hsl_toNat
  simp only [hslChannels, sector_eq hhue, hc, hx, hm, hk, hrow]

/-- Settles O12: the quantities of the statement are those of the converter, and each sector is a row of its table. -/
theorem hslResult : Obligations.HslResult := by
  refine ⟨rfl, fun s => ?_⟩
  obtain ⟨hhadj, hsadj, hladj⟩ := adjOf_hsl_columns_iff (i := .hsl) nofun s
  simp only [true_and] at hhadj hsadj hladj
  refine ⟨_, exec_eq .hsl s, resultFrame_setResult _ _ _, ?_, hhadj, hsadj, hladj, rfl⟩
  rintro h' s' l' c h1 h2 temp x m hh hs hl hc rfl rfl rfl hx hm
  rw [← reduceHue_eq] at hh
  rw [← clampPercent_eq] at hs hl
  subst hh hs hl
  obtain ⟨hhue, hhue'⟩ := reduceHue_range s.opa.toInt
  obtain ⟨hsat, hsat'⟩ := clampPercent_range s.opb.toInt
  obtain ⟨hlight, hlight'⟩ := clampPercent_range s.opc.toInt
  rw [← chroma_eq hlight hlight' hsat] at hc
  rw [← secondLargest_eq_spec hhue] at hx
  rw [← lightnessOffset_eq hlight (hc ▸ chroma_le_dividend hlight hlight' hsat hsat')] at hm
  have row {k r g b : Int} (hk : reduceHue s.opa.toInt / 60 = k) (hrow : sectorTable k c x = (r, g, b)) :=
    hsl_toNat_of_row hc.symm hx.symm hm.symm hk hrow
  refine ⟨fun hk => ?_, fun hk => ?_, fun hk => ?_, fun hk => ?_, fun hk => ?_, fun hk => ?_, by omega, by omega⟩
  all_goals
    refine (row hk rfl).trans ?_
    rw [zero_add]

end Sys2Proof.Machine
end

section
/-! SUPPORT. The HSL conversion in the unsigned widths of 42_hsl.md R101: each quantity has the value it has over the
integers, so no width loses a bit. -/

namespace Sys2Proof.Machine

theorem absDiff_toNat {n : Nat} (a b : BitVec n) : ((absDiff a b).toNat : Int) = |(a.toNat : Int) - b.toNat| := by
  unfold absDiff
  split
  · next hlt =>
    have hle : a ≤ b := BitVec.le_of_lt hlt
    rw [BitVec.toNat_sub_of_le hle]
    rw [BitVec.le_def] at hle
    rw [abs_of_nonpos] <;> omega
  · next hge =>
    have hle : b ≤ a := BitVec.not_lt.1 hge
    rw [BitVec.toNat_sub_of_le hle]
    rw [BitVec.le_def] at hle
    rw [abs_of_nonneg] <;> omega

/-! ## The quantities -/

/-- The first factor of the chroma. -/
theorem chromaFactor_toNat {light : BitVec 7} (hl : light.toNat ≤ 99) :
    ((100 - absDiff (2 * light.setWidth 22) 100).toNat : Int) = 100 - |2 * (light.toNat : Int) - 100| := by
  have hdouble : (2 * light.setWidth 22).toNat = 2 * light.toNat := by
    rw [BitVec.toNat_mul, BitVec.toNat_setWidth]
    simp only [BitVec.reduceToNat]
    omega
  have hdist : ((absDiff (2 * light.setWidth 22) 100).toNat : Int) = |2 * (light.toNat : Int) - 100| := by
    rw [absDiff_toNat, hdouble]
    rfl
  have hle : |2 * (light.toNat : Int) - 100| ≤ 100 := abs_le.2 ⟨by omega, by omega⟩
  rw [← hdist] at hle ⊢
  have hle' : absDiff (2 * light.setWidth 22) 100 ≤ 100 := BitVec.le_def.2 (Int.ofNat_le.1 hle)
  rw [BitVec.toNat_sub_of_le hle', Int.natCast_sub (BitVec.le_def.1 hle')]
  rfl

theorem chromaNarrow_toNat {sat light : BitVec 7} (hs : sat.toNat ≤ 99) (hl : light.toNat ≤ 99) :
    ((chromaNarrow light sat).toNat : Int) = chroma light.toNat sat.toNat := by
  obtain ⟨f, hf⟩ : ∃ f, 100 - absDiff (2 * light.setWidth 22) 100 = f := ⟨_, rfl⟩
  have hfactor := chromaFactor_toNat hl
  have hnonneg := abs_nonneg (2 * (light.toNat : Int) - 100)
  rw [hf] at hfactor
  rw [chroma_eq (by omega) (by omega) (by omega), ← hfactor, chromaNarrow, hf]
  have hprod : f.toNat * sat.toNat ≤ 100 * 99 := Nat.mul_le_mul (by omega) hs
  rw [BitVec.toNat_setWidth, BitVec.toNat_udiv, BitVec.toNat_mul, BitVec.toNat_mul,
    BitVec.toNat_setWidth_of_le (by decide)]
  simp (disch := omega) only [BitVec.reduceToNat, Nat.mod_eq_of_lt]
  rfl

theorem sectorNarrow_toNat {hue : BitVec 9} (hh : hue.toNat ≤ 359) : (sectorNarrow hue).toNat = hue.toNat / 60 := by
  rw [sectorNarrow, BitVec.toNat_setWidth, BitVec.toNat_udiv]
  simp only [BitVec.reduceToNat]
  omega

/-- The hue's place in its sector, in 9 bits. -/
theorem sectorPlace_toNat {hue : BitVec 9} (hh : hue.toNat ≤ 359) :
    (hue - 60 * (sectorNarrow hue).setWidth 9).toNat = hue.toNat % 60 := by
  have hbase : (60 * (sectorNarrow hue).setWidth 9).toNat = 60 * (hue.toNat / 60) := by
    rw [BitVec.toNat_mul, BitVec.toNat_setWidth, sectorNarrow_toNat hh]
    simp only [BitVec.reduceToNat]
    omega
  rw [BitVec.toNat_sub_of_le, hbase]
  · omega
  · rw [BitVec.le_def, hbase]
    omega

theorem fractionNarrow_toNat {hue : BitVec 9} (hh : hue.toNat ≤ 359) :
    (fractionNarrow hue).toNat = hue.toNat % 60 * 256 / 60 := by
  rw [fractionNarrow, BitVec.toNat_setWidth, BitVec.toNat_udiv, BitVec.toNat_mul, BitVec.toNat_setWidth,
    sectorPlace_toNat hh]
  simp (disch := omega) only [BitVec.reduceToNat, Nat.mod_eq_of_lt]

theorem distanceNarrow_toNat {hue : BitVec 9} (hh : hue.toNat ≤ 359) :
    ((distanceNarrow hue).toNat : Int) = sectorDistance hue.toNat := by
  have hsum : ((((sectorNarrow hue).setWidth 9 % 2) <<< 8) + (fractionNarrow hue).setWidth 9).toNat =
      hue.toNat / 60 % 2 * 256 + hue.toNat % 60 * 256 / 60 := by
    rw [BitVec.toNat_add, BitVec.toNat_shiftLeft, BitVec.toNat_umod, BitVec.toNat_setWidth, BitVec.toNat_setWidth,
      sectorNarrow_toNat hh, fractionNarrow_toNat hh, Nat.shiftLeft_eq]
    simp (disch := omega) only [BitVec.reduceToNat, Nat.mod_eq_of_lt]
  rw [distanceNarrow, absDiff_toNat, hsum, sectorDistance_eq (by omega), sectorFraction_eq (by omega)]
  rfl

theorem secondNarrow_toNat {hue : BitVec 9} {c : BitVec 8} (hh : hue.toNat ≤ 359) (hc : c.toNat ≤ 253) :
    ((secondNarrow c hue).toNat : Int) = secondLargest c.toNat hue.toNat := by
  obtain ⟨-, hhi⟩ := sectorDistance_range (h := hue.toNat) (by omega)
  rw [← distanceNarrow_toNat hh] at hhi
  have hle : distanceNarrow hue ≤ 256 := BitVec.le_def.2 (Int.ofNat_le.1 hhi)
  have hsub : ((256 - (distanceNarrow hue).toNat : Nat) : Int) = 256 - (distanceNarrow hue).toNat :=
    Int.natCast_sub (Int.ofNat_le.1 hhi)
  have hprod : c.toNat * (256 - (distanceNarrow hue).toNat) ≤ 253 * 256 := Nat.mul_le_mul hc (Nat.sub_le _ _)
  rw [secondLargest_eq, ← distanceNarrow_toNat hh, secondNarrow, BitVec.toNat_setWidth, BitVec.toNat_ushiftRight,
    BitVec.toNat_mul, BitVec.toNat_setWidth_of_le (by decide), BitVec.toNat_setWidth_of_le (by decide),
    BitVec.toNat_sub_of_le hle, Nat.shiftRight_eq_div_pow]
  simp (disch := omega) only [BitVec.reduceToNat, Nat.mod_eq_of_lt]
  rw [Int.natCast_ediv, Int.natCast_mul, hsub]
  rfl

theorem offsetNarrow_toNat {light : BitVec 7} {c : BitVec 8} (hl : light.toNat ≤ 99)
    (hc : (c.toNat : Int) ≤ light.toNat * 512 / 100) :
    ((offsetNarrow light c).toNat : Int) = lightnessOffset light.toNat c.toNat := by
  have hdividend : (((light.setWidth 16 * 512) / 100).setWidth 9).toNat = light.toNat * 512 / 100 := by
    rw [BitVec.toNat_setWidth, BitVec.toNat_udiv, BitVec.toNat_mul, BitVec.toNat_setWidth]
    simp (disch := omega) only [BitVec.reduceToNat, Nat.mod_eq_of_lt]
  have hc9 : (c.setWidth 9).toNat = c.toNat := BitVec.toNat_setWidth_of_le (by decide)
  have hle : c.setWidth 9 ≤ ((light.setWidth 16 * 512) / 100).setWidth 9 := by
    rw [BitVec.le_def, hdividend, hc9]
    omega
  rw [lightnessOffset_eq (by omega) hc, offsetNarrow, BitVec.toNat_setWidth, BitVec.toNat_udiv,
    BitVec.toNat_sub_of_le hle, hdividend, hc9]
  simp (disch := omega) only [BitVec.reduceToNat, Nat.mod_eq_of_lt]
  omega

/-- The two tables agree on every sector, those past 5 included. -/
theorem tableNarrow_toNat (k : BitVec 3) (c x : BitVec 8) :
    sectorTable k.toNat c.toNat x.toNat = (((tableNarrow k c x).1.toNat : Int), ((tableNarrow k c x).2.1.toNat : Int),
      ((tableNarrow k c x).2.2.toNat : Int)) := by
  have hk : k = 0 ∨ k = 1 ∨ k = 2 ∨ k = 3 ∨ k = 4 ∨ k = 5 ∨ k = 6 ∨ k = 7 := by
    revert k
    decide
  rcases hk with rfl | rfl | rfl | rfl | rfl | rfl | rfl | rfl <;> rfl

/-! ## The channels -/

/-- Adding m to a component loses nothing when the sum is a byte. -/
theorem add_toNat_of_le {a m : Byte} (h : (a.toNat : Int) + m.toNat ≤ 255) :
    ((a + m).toNat : Int) = a.toNat + m.toNat := by
  rw [BitVec.toNat_add]
  omega

/-- The channels over the integers, as sums of the narrow quantities. -/
theorem hslChannels_eq_narrow {hue : BitVec 9} {sat light : BitVec 7} (hh : hue.toNat ≤ 359) (hs : sat.toNat ≤ 99)
    (hl : light.toNat ≤ 99) {c m : BitVec 8} {t : Byte × Byte × Byte} (hc : chromaNarrow light sat = c)
    (hm : offsetNarrow light c = m) (ht : tableNarrow (sectorNarrow hue) c (secondNarrow c hue) = t) :
    hslChannels hue.toNat sat.toNat light.toNat =
      ((t.1.toNat : Int) + m.toNat, (t.2.1.toNat : Int) + m.toNat, (t.2.2.toNat : Int) + m.toNat) := by
  have hchroma := chromaNarrow_toNat hs hl
  rw [hc] at hchroma
  have hcle := chroma_le (l := light.toNat) (s := sat.toNat) (by omega) (by omega) (by omega) (by omega)
  have hcle' := chroma_le_dividend (l := light.toNat) (s := sat.toNat) (by omega) (by omega) (by omega) (by omega)
  rw [← hchroma] at hcle hcle'
  have hsector : sector hue.toNat = ((sectorNarrow hue).toNat : Int) := by
    rw [sector_eq (by omega), sectorNarrow_toNat hh]
    rfl
  rw [← ht, ← hm, hslChannels, ← hchroma, hsector, ← secondNarrow_toNat hh (by omega), ← offsetNarrow_toNat hl hcle',
    tableNarrow_toNat]

theorem hslNarrow_toNat {hue : BitVec 9} {sat light : BitVec 7} (hh : hue.toNat ≤ 359) (hs : sat.toNat ≤ 99)
    (hl : light.toNat ≤ 99) {r g b : Int} (he : hslChannels hue.toNat sat.toNat light.toNat = (r, g, b)) :
    ((hslNarrow hue sat light).toNat : Int) = r * 65536 + g * 256 + b := by
  obtain ⟨⟨-, hr⟩, ⟨-, hg⟩, -, hb⟩ :=
    hslChannels_range (h := hue.toNat) (s := sat.toNat) (l := light.toNat) (by omega) (by omega) (by omega) (by omega)
      (by omega)
  rw [hslChannels_eq_narrow hh hs hl rfl rfl rfl] at he hr hg hb
  obtain ⟨rfl, rfl, rfl⟩ : _ ∧ _ ∧ _ := by simpa only [Prod.mk.injEq] using he
  rw [hslNarrow, append3_toNat]
  push_cast
  rw [add_toNat_of_le hr, add_toNat_of_le hg, add_toNat_of_le hb]

/-- Settles O23: both conversions have the channels of the integers, each a byte. -/
theorem hslFitsTheStatedWidths : Obligations.HslFitsTheStatedWidths := by
  intro h s l
  obtain ⟨hh, hh'⟩ := reduceHue_range h
  obtain ⟨hs, hs'⟩ := clampPercent_range s
  obtain ⟨hl, hl'⟩ := clampPercent_range l
  have hhue : ((BitVec.ofInt 9 (reduceHue h)).toNat : Int) = reduceHue h := toNat_ofInt_of_range hh (by omega)
  have hsat : ((BitVec.ofInt 7 (clampPercent s)).toNat : Int) = clampPercent s := toNat_ofInt_of_range hs (by omega)
  have hlight : ((BitVec.ofInt 7 (clampPercent l)).toNat : Int) = clampPercent l := toNat_ofInt_of_range hl (by omega)
  obtain ⟨⟨r, g, b⟩, he⟩ : ∃ p, hslChannels (reduceHue h) (clampPercent s) (clampPercent l) = p := ⟨_, rfl⟩
  apply BitVec.eq_of_toNat_eq
  rw [← Int.natCast_inj, hsl_toNat he,
    hslNarrow_toNat (by omega) (by omega) (by omega) (by rw [hhue, hsat, hlight, he])]

end Sys2Proof.Machine
end
